-- ==== Sys2Proof/Word.lean ====
section
/-! DEFINITION. The word types of the block: every quantity is a byte, a host address, a command word or a field of one (00_scope.md R8, R9). -/

namespace Sys2Proof

/-- A data byte: DATA_W, MADDR_W and HDATA_W are 8 bits (R8). -/
abbrev Byte := BitVec 8

/-- A host address: HADDR_W is 9 bits (R8, R50), so no address above 0x1FF exists (R57). -/
abbrev HAddr := BitVec 9

/-- A command word CW = {OP, A, B, F} (R12, R80). -/
abbrev CmdWord := BitVec 32

end Sys2Proof
end

