-- ==== Sys2Proof/Config.lean ====
section
/-! DEFINITION. What is fixed for one machine: the parameters of the block and the sizes of 00_scope.md R8. -/

namespace Sys2Proof

/-- The names of the bus status codes (R35). -/
inductive Status where
  | start
  | repStart
  | slaWAck
  | slaWNack
  | dataTxAck
  | dataTxNack
  | arbLost
  | slaRAck
  | slaRNack
  | dataRxAck
  | dataRxNack
  | noInfo
  | busError
deriving DecidableEq, Repr

/-- STATUS_CODE, the table of the bus status codes (R8, R35, U19): of each value its bits 7:3, which TWSR.CODE takes
(R36). Bits 2:0 of every value are 0 (R35), so the table does not hold them. -/
structure StatusCodes where
  /-- START. -/
  start : BitVec 5
  /-- REP_START. -/
  repStart : BitVec 5
  /-- SLA_W_ACK. -/
  slaWAck : BitVec 5
  /-- SLA_W_NACK. -/
  slaWNack : BitVec 5
  /-- DATA_TX_ACK. -/
  dataTxAck : BitVec 5
  /-- DATA_TX_NACK. -/
  dataTxNack : BitVec 5
  /-- ARB_LOST. -/
  arbLost : BitVec 5
  /-- SLA_R_ACK. -/
  slaRAck : BitVec 5
  /-- SLA_R_NACK. -/
  slaRNack : BitVec 5
  /-- DATA_RX_ACK. -/
  dataRxAck : BitVec 5
  /-- DATA_RX_NACK. -/
  dataRxNack : BitVec 5
  /-- NO_INFO. -/
  noInfo : BitVec 5
  /-- BUS_ERROR. -/
  busError : BitVec 5
deriving DecidableEq, Repr

/-- The parameters of the block that are values (R8): arguments of the model, fixed for one machine.
P_BUS_LIVE is a premise and no value; T_WR belongs to the reference device. -/
structure Params where
  /-- STATUS_CODE (R35, U19). -/
  codes : StatusCodes
  /-- P_EE_SLA7, the EEPROM's 7-bit slave address (R131). -/
  eeSla7 : BitVec 7
deriving DecidableEq, Repr

namespace Config

/-- Bits 7:3 of a status code (R36). -/
def upper (v : Byte) : BitVec 5 := v.extractLsb' 3 5

/-- The default values of STATUS_CODE (R35). -/
def defaultCodes : StatusCodes where
  start := upper 0x08#8
  repStart := upper 0x10#8
  slaWAck := upper 0x18#8
  slaWNack := upper 0x20#8
  dataTxAck := upper 0x28#8
  dataTxNack := upper 0x30#8
  arbLost := upper 0x38#8
  slaRAck := upper 0x40#8
  slaRNack := upper 0x48#8
  dataRxAck := upper 0x50#8
  dataRxNack := upper 0x58#8
  noInfo := upper 0xF8#8
  busError := upper 0x00#8

/-- The parameters of the test vectors (R8): STATUS_CODE at its defaults, P_EE_SLA7 at the vector value.
DESIGN CHOICE (log 5, log 6): what State.reset takes. -/
def vectorParams : Params := ⟨defaultCodes, 0x50#7⟩

/-- What a byte of BUF that no entry lists reads as. R45 and U1 leave the contents after reset unspecified.
DESIGN CHOICE (log 4), unsafe. -/
def unlistedByte : Byte := 0x00#8

/-- BUF_SIZE (R8, R38). -/
def bufSize : Nat := 256

/-- PAGE, the EEPROM's page size in bytes (R8). -/
def page : Nat := 8

end Config

end Sys2Proof
end

