-- ==== Sys2Proof/Syntax.lean ====
section
/-! DEFINITION. The twelve commands of 30_encoding.md R83 and their operands (R81, R82). -/

namespace Sys2Proof

/-- The direction of an address byte: W = 0, R = 1 (R82, R93). -/
inductive Dir where
  | w
  | r
deriving DecidableEq, Repr

/-- A command with its operands, one constructor per row of the opcode map (R83). -/
inductive Instr where
  /-- P.STATUS, format N (R110). -/
  | pStatus
  /-- P.START, format N (R111). -/
  | pStart
  /-- P.STOP, format N (R112). -/
  | pStop
  /-- P.TXADDR, format AD (R113): the slave address is A[7:1]; A[0] is no operand (R87). -/
  | pTxaddr (sla : BitVec 7) (dir : Dir)
  /-- P.TXBYTE, format A (R114). -/
  | pTxbyte (data : Byte)
  /-- P.RXBYTE, format K (R115): true is ACK. -/
  | pRxbyte (ack : Bool)
  /-- P.INIT, format AP (R116). -/
  | pInit (bitrate : Byte) (presc : BitVec 3)
  /-- E.WRBYTE, format AB (R134). -/
  | eWrbyte (maddr data : Byte)
  /-- E.RDBYTE, format A (R135). -/
  | eRdbyte (maddr : Byte)
  /-- E.WRPAGE, format A (R136). -/
  | eWrpage (maddr : Byte)
  /-- E.RDSEQ, format AB (R137). -/
  | eRdseq (maddr n : Byte)
  /-- E.WAITRDY, format N (R138). -/
  | eWaitrdy
deriving DecidableEq, Repr

/-- The rows of the opcode map by name (R83): the `op` of SCH = S_RUN(op, label, i) (R41). -/
inductive Op where
  | pStatus
  | pStart
  | pStop
  | pTxaddr
  | pTxbyte
  | pRxbyte
  | pInit
  | eWrbyte
  | eRdbyte
  | eWrpage
  | eRdseq
  | eWaitrdy
deriving DecidableEq, Repr

/-- The row a command belongs to. -/
def Instr.op : Instr → Op
  | .pStatus => .pStatus
  | .pStart => .pStart
  | .pStop => .pStop
  | .pTxaddr _ _ => .pTxaddr
  | .pTxbyte _ => .pTxbyte
  | .pRxbyte _ => .pRxbyte
  | .pInit _ _ => .pInit
  | .eWrbyte _ _ => .eWrbyte
  | .eRdbyte _ => .eRdbyte
  | .eWrpage _ => .eWrpage
  | .eRdseq _ _ => .eRdseq
  | .eWaitrdy => .eWaitrdy

/-- The command is an E command (R14): opcodes 0x10 to 0x14. -/
def Op.isE : Op → Bool
  | .pStatus => false
  | .pStart => false
  | .pStop => false
  | .pTxaddr => false
  | .pTxbyte => false
  | .pRxbyte => false
  | .pInit => false
  | .eWrbyte => true
  | .eRdbyte => true
  | .eWrpage => true
  | .eRdseq => true
  | .eWaitrdy => true

end Sys2Proof
end

