-- ==== Sys2Proof/WellFormed.lean ====
section
/-! DEFINITION. The operand checks of 30_encoding.md R94 that the operand types do not already make. -/

namespace Sys2Proof

/-- E.RDSEQ's length is 1 to 255 (R94, R137). A command of length 0 decodes, and its launch is rejected with
LEN_ZERO (R88, R90). -/
def Instr.wellFormed : Instr → Bool
  | .eRdseq _ n => n != 0#8
  | .pStatus => true
  | .pStart => true
  | .pStop => true
  | .pTxaddr _ _ => true
  | .pTxbyte _ => true
  | .pRxbyte _ => true
  | .pInit _ _ => true
  | .eWrbyte _ _ => true
  | .eRdbyte _ => true
  | .eWrpage _ => true
  | .eWaitrdy => true

end Sys2Proof
end

