-- ==== Sys2Proof/Decode.lean ====
section
/-! DEFINITION. The opcode map, the decoder and the encoder (30_encoding.md R80 to R91, R95, R96). -/

namespace Sys2Proof

/-- OP = CW[31:24] (R80). -/
def cwOp (cw : CmdWord) : Byte := cw.extractLsb' 24 8

/-- A = CW[23:16] (R80). -/
def cwA (cw : CmdWord) : Byte := cw.extractLsb' 16 8

/-- B = CW[15:8] (R80). -/
def cwB (cw : CmdWord) : Byte := cw.extractLsb' 8 8

/-- F = CW[7:0] (R80). -/
def cwF (cw : CmdWord) : Byte := cw.extractLsb' 0 8

/-- CW = {OP, A, B, F}, OP in the high bits (R80, R95). -/
def cmdWordOf (op a b f : Byte) : CmdWord := op ++ a ++ b ++ f

/-- One row of the opcode map. -/
structure Row where
  op : Op
  pattern : CmdWord
  mask : CmdWord
deriving DecidableEq, Repr

/-- The opcode map: `match` and `mask` as R83 and opcode_table.json print them. -/
def opcodeMap : List Row :=
  [ ⟨.pStatus, 0x01000000#32, 0xFFFFFFFF#32⟩,
    ⟨.pStart, 0x02000000#32, 0xFFFFFFFF#32⟩,
    ⟨.pStop, 0x03000000#32, 0xFFFFFFFF#32⟩,
    ⟨.pTxaddr, 0x04000000#32, 0xFF00FFFE#32⟩,
    ⟨.pTxbyte, 0x05000000#32, 0xFF00FFFF#32⟩,
    ⟨.pRxbyte, 0x06000000#32, 0xFFFFFFFE#32⟩,
    ⟨.pInit, 0x07000000#32, 0xFF00F8FF#32⟩,
    ⟨.eWrbyte, 0x10000000#32, 0xFF0000FF#32⟩,
    ⟨.eRdbyte, 0x11000000#32, 0xFF00FFFF#32⟩,
    ⟨.eWrpage, 0x12000000#32, 0xFF00FFFF#32⟩,
    ⟨.eRdseq, 0x13000000#32, 0xFF0000FF#32⟩,
    ⟨.eWaitrdy, 0x14000000#32, 0xFFFFFFFF#32⟩ ]

/-- The row with OP = cw[31:24], if there is one (R84). -/
def rowOf (cw : CmdWord) : Option Row := opcodeMap.find? fun r => cwOp r.pattern == cwOp cw

/-- The direction bit: 0 selects Write, 1 selects Read (R82). -/
def dirOfBit (d : Bool) : Dir := if d then .r else .w

/-- The bit of a direction (R82). -/
def Dir.bit : Dir → Bool
  | .w => false
  | .r => true

/-- Operand assembly (R82): a = CW[23:16], b = CW[15:8], d = k = CW[0], r = CW[23:16], p = CW[10:8]; in format AD
the slave address is CW[23:17]. -/
def operands (op : Op) (cw : CmdWord) : Instr :=
  match op with
  | .pStatus => .pStatus
  | .pStart => .pStart
  | .pStop => .pStop
  | .pTxaddr => .pTxaddr (cw.extractLsb' 17 7) (dirOfBit (cw.getLsbD 0))
  | .pTxbyte => .pTxbyte (cwA cw)
  | .pRxbyte => .pRxbyte (cw.getLsbD 0)
  | .pInit => .pInit (cwA cw) (cw.extractLsb' 8 3)
  | .eWrbyte => .eWrbyte (cwA cw) (cwB cw)
  | .eRdbyte => .eRdbyte (cwA cw)
  | .eWrpage => .eWrpage (cwA cw)
  | .eRdseq => .eRdseq (cwA cw) (cwB cw)
  | .eWaitrdy => .eWaitrdy

/-- What a command word decodes to: one of the twelve commands, or a verdict by name (R90). LEN_ZERO and SEQUENCE
are no decode verdicts: they are decided at launch (R90). -/
inductive Verdict where
  | command (i : Instr)
  /-- OP is not in the opcode map (R85). -/
  | illegalOp
  /-- A must-be-zero bit is 1 (R86). -/
  | reservedField
deriving DecidableEq, Repr

/-- The decoder, total on all 2^32 words (R90), with the checks in R84's order. -/
def decode (cw : CmdWord) : Verdict :=
  match rowOf cw with
  | none => .illegalOp
  | some r => if cw &&& r.mask = r.pattern then .command (operands r.op cw) else .reservedField

/-- The opcode byte of a row (R83). -/
def Op.byte : Op → Byte
  | .pStatus => 0x01#8
  | .pStart => 0x02#8
  | .pStop => 0x03#8
  | .pTxaddr => 0x04#8
  | .pTxbyte => 0x05#8
  | .pRxbyte => 0x06#8
  | .pInit => 0x07#8
  | .eWrbyte => 0x10#8
  | .eRdbyte => 0x11#8
  | .eWrpage => 0x12#8
  | .eRdseq => 0x13#8
  | .eWaitrdy => 0x14#8

/-- The address byte {A[7:1], dir} (R82, R105). -/
def addrByte (sla : BitVec 7) (dir : Dir) : Byte := sla ++ BitVec.ofBool dir.bit

/-- The operand bytes A, B, F of a command (R81, R96): every bit that is no operand is 0, P.TXADDR's A[0] among
them (R94). -/
def Instr.operandBytes : Instr → Byte × Byte × Byte
  | .pStatus => (0#8, 0#8, 0#8)
  | .pStart => (0#8, 0#8, 0#8)
  | .pStop => (0#8, 0#8, 0#8)
  | .pTxaddr sla dir => (addrByte sla .w, 0#8, 0#7 ++ BitVec.ofBool dir.bit)
  | .pTxbyte data => (data, 0#8, 0#8)
  | .pRxbyte ack => (0#8, 0#8, 0#7 ++ BitVec.ofBool ack)
  | .pInit bitrate presc => (bitrate, 0#5 ++ presc, 0#8)
  | .eWrbyte maddr data => (maddr, data, 0#8)
  | .eRdbyte maddr => (maddr, 0#8, 0#8)
  | .eWrpage maddr => (maddr, 0#8, 0#8)
  | .eRdseq maddr n => (maddr, n, 0#8)
  | .eWaitrdy => (0#8, 0#8, 0#8)

/-- The command word of a command (R95, R96). -/
def encode (i : Instr) : CmdWord :=
  cmdWordOf i.op.byte i.operandBytes.1 i.operandBytes.2.1 i.operandBytes.2.2

/-- The instruction the decoder reads from a table word: the table numbers the bits of the 32-bit command word as
R80 does, bit 31 the top bit of OP. Every command is one word long (R80), so nbits adds nothing. -/
def decodeTableWord (_nbits w : Nat) : Option Instr :=
  match decode (BitVec.ofNat 32 w) with
  | .command i => some i
  | .illegalOp => none
  | .reservedField => none

end Sys2Proof
end

