-- ==== Sys2Proof/Machine/State.lean ====
section
/-! DEFINITION. The state of the block as plain data (10_state.md R20 to R46), the moves that drive it (40_bus_primitives.md R100), the reasons a step can stop, and the state after reset (R45). -/

namespace Sys2Proof.Machine

/-- BPH, the bus phase (R39). -/
inductive Phase where
  | idle
  | addr
  | mt
  | mtNak
  | mr
  | mrNak
deriving DecidableEq, Repr

/-- What a written byte is: an address byte with its direction, or data (R42). -/
inductive WriteKind where
  | addr (dir : Dir)
  | data
deriving DecidableEq, Repr

/-- A bus operation in flight (R42). -/
inductive BusOp where
  | start (rep : Bool)
  | stop
  | write (b : Byte) (kind : WriteKind)
  | read (k : Bool)
deriving DecidableEq, Repr

/-- The step labels of the step tables (R117, R139); `fin` is the label END. -/
inductive Label where
  | s0
  | b0
  | b1
  | b2
  | b3
  | b4
  | b5
  | b6
  | b7
  | w0
  | w1
  | w2
  | w3
  | fin
deriving DecidableEq, Repr

/-- SCH, the ETS control state (R41). -/
inductive Sch where
  | idle
  | run (op : Op) (label : Label) (i : Byte)
  | fault
deriving DecidableEq, Repr

/-- ERRCODE (R31); the codes 5, 6 and 7 are never written (U12). -/
inductive ErrCode where
  | none
  | illegalOp
  | reservedField
  | lenZero
  | sequence
deriving DecidableEq, Repr

/-- A response of ENV to a bus operation (R101). -/
inductive Response where
  | ok
  | ack
  | nack
  | data (v : Byte)
  | arbLost
  | busError
deriving DecidableEq, Repr

/-- An event of the bus trace (R11, R167); in `write` and `read` the Bool is true for A, false for N. -/
inductive BusEvent where
  | start
  | repStart
  | stop
  | write (b : Byte) (ack : Bool)
  | read (b : Byte) (ack : Bool)
  | fault (code : Byte)
deriving DecidableEq, Repr

/-- One move: which agent takes the next step, and with what (R100). DESIGN CHOICE (log 1). -/
inductive Move where
  /-- HOST reads an address (R52). -/
  | hostRead (h : HAddr)
  /-- HOST writes a byte (R53). -/
  | hostWrite (h : HAddr) (v : Byte)
  /-- BLOCK takes a step, if one is enabled (R100). -/
  | block
  /-- ENV answers the operation in flight (R101). -/
  | env (r : Response)
  /-- RST is asserted and released (R180); the bytes are what BUF then holds from index 0 up (U1). -/
  | rst (contents : List Byte)
deriving DecidableEq, Repr

/-- The state of the block, and after it the model's own fields. -/
structure State where
  /-- CMD_OP (R23). -/
  cmdOp : Byte
  /-- CMD_A (R24). -/
  cmdA : Byte
  /-- CMD_B (R24). -/
  cmdB : Byte
  /-- CMD_F (R24). -/
  cmdF : Byte
  /-- LC, the latched command word (R25). -/
  lc : CmdWord
  /-- RESULT (R26). -/
  result : Byte
  /-- SSTAT.NAK (R29). -/
  nak : Bool
  /-- SSTAT.OVR (R30). -/
  ovr : Bool
  /-- SSTAT.ERRCODE (R31). SSTAT.BUSY and SSTAT.FLT are read off SCH (R28, R43). -/
  errcode : ErrCode
  /-- TWCR (R32). -/
  twcr : Byte
  /-- TWDR (R34). -/
  twdr : Byte
  /-- TWSR.CODE = TWSR[7:3] (R36). -/
  twsrCode : BitVec 5
  /-- TWSR.PRESC = TWSR[2:0] (R36). -/
  twsrPresc : BitVec 3
  /-- TWBR (R37). -/
  twbr : Byte
  /-- BUF (R38), in canonical form: indexes strictly rising, no entry equal to Config.unlistedByte. -/
  buf : List Host.Cell
  /-- BPH (R39). -/
  bph : Phase
  /-- PEND (R42). -/
  pend : Option BusOp
  /-- SCH (R41). -/
  sch : Sch
  /-- The parameters (R8): no step writes them. The model's own field (log 5, log 6). -/
  params : Params
  /-- The moves still to be made. The model's own field (log 1). -/
  moves : List Move
  /-- The response ENV gives in the present step; none between steps. The model's own field (log 3). -/
  answer : Option Response
  /-- The bus trace so far, oldest first (R11). The model's own field (log 7). -/
  trace : List BusEvent
  /-- What each host read returned, oldest first (R52). The model's own field (log 7). -/
  reads : List (HAddr × Byte)
deriving DecidableEq, Repr

/-- The faults of the model: each stops a state that no run reaches (log 12), so each is safe. The FAULT of the spec
(R167) is none of these: it is a next state, SCH = S_FAULT. -/
inductive Fault where
  /-- SCH names a label that the step table of its command has not. Raised by every meaning; safe. -/
  | noSuchLabel
  /-- A command is asked for its step while SCH runs another one. Raised by every meaning; safe. -/
  | otherCommandRunning
  /-- A command runs and LC decodes to no command. Raised by the BLOCK and ENV steps; safe. -/
  | latchUndecodable
  /-- An operation is in flight at a label that issues none. Raised by every meaning; safe. -/
  | strayOperation
deriving DecidableEq, Repr

/-- The refusals of the model. -/
inductive Refusal where
  /-- A command that exec has no meaning for. No arm raises it: every command has its meaning. Safe. -/
  | notModelled (mnemonic : String)
deriving DecidableEq, Repr

/-- Reset values of every piece of state (R45) of a block with the parameters `p`: TWSR reads {NO_INFO, 0}. BUF lists
nothing (log 4); the model's own fields are as logs 1, 3 and 7 say. -/
def State.resetWith (p : Params) : State where
  cmdOp := 0x00#8
  cmdA := 0x00#8
  cmdB := 0x00#8
  cmdF := 0x00#8
  lc := 0x00000000#32
  result := 0x00#8
  nak := false
  ovr := false
  errcode := .none
  twcr := 0x00#8
  twdr := 0xFF#8
  twsrCode := p.codes.noInfo
  twsrPresc := 0#3
  twbr := 0x00#8
  buf := []
  bph := .idle
  pend := none
  sch := .idle
  params := p
  moves := []
  answer := none
  trace := []
  reads := []

/-- The block after reset (R45), with the parameters of the test vectors (log 5, log 6). -/
def State.reset : State := State.resetWith Config.vectorParams

end Sys2Proof.Machine
end

