-- ==== Sys2Proof/Machine/Flags.lean ====
section
/-! DEFINITION. Status codes, the TWCR values, the SSTAT register and the launch verdicts (10_state.md R27 to R36; 30_encoding.md R88, R89). -/

namespace Sys2Proof

/-- Every status, in the order of R35. -/
def Status.all : List Status :=
  [.start, .repStart, .slaWAck, .slaWNack, .dataTxAck, .dataTxNack, .arbLost, .slaRAck, .slaRNack, .dataRxAck,
    .dataRxNack, .noInfo, .busError]

/-- What TWSR.CODE takes of a status (R36), by the table of the machine (R35). -/
def Status.code (c : Status) (t : StatusCodes) : BitVec 5 :=
  match c with
  | .start => t.start
  | .repStart => t.repStart
  | .slaWAck => t.slaWAck
  | .slaWNack => t.slaWNack
  | .dataTxAck => t.dataTxAck
  | .dataTxNack => t.dataTxNack
  | .arbLost => t.arbLost
  | .slaRAck => t.slaRAck
  | .slaRNack => t.slaRNack
  | .dataRxAck => t.dataRxAck
  | .dataRxNack => t.dataRxNack
  | .noInfo => t.noInfo
  | .busError => t.busError

/-- The value of a status code, the value of `TWSR & 0xF8`: its bits 2:0 are 0 (R35). -/
def Status.value (c : Status) (t : StatusCodes) : Byte := c.code t ++ 0#3

/-- The values of a table are distinct: what 92_eei_decisions.md D8 asks of a table in place of the defaults. -/
abbrev Distinct (t : StatusCodes) : Prop := (Status.all.map fun c => c.code t).Nodup

end Sys2Proof

namespace Sys2Proof.Machine

/-- TWSR = {CODE, PRESC} (R36). -/
def State.twsr (s : State) : Byte := s.twsrCode ++ s.twsrPresc

/-- STATUS_MASK (R8): the upper 5 bits. -/
def statusMask : Byte := 0xF8#8

/-- µSTATUS: `TWSR & 0xF8` (R108). -/
def State.status (s : State) : Byte := s.twsr &&& statusMask

/-- SSTAT.BUSY: 1 exactly when SCH is S_RUN or S_FAULT (R28). -/
def State.busy (s : State) : Bool :=
  match s.sch with
  | .idle => false
  | .run _ _ _ => true
  | .fault => true

/-- SSTAT.FLT: 1 while SCH = S_FAULT (R27, R43). -/
def State.flt (s : State) : Bool :=
  match s.sch with
  | .idle => false
  | .run _ _ _ => false
  | .fault => true

/-- The value of ERRCODE (R31). -/
def ErrCode.bits : ErrCode → BitVec 3
  | .none => 0#3
  | .illegalOp => 1#3
  | .reservedField => 2#3
  | .lenZero => 3#3
  | .sequence => 4#3

/-- SSTAT as the host reads it: BUSY 0, NAK 1, OVR 2, FLT 3, ERRCODE 6:4, bit 7 zero (R27). -/
def State.sstat (s : State) : Byte :=
  0#1 ++ s.errcode.bits ++ BitVec.ofBool s.flt ++ BitVec.ofBool s.ovr ++ BitVec.ofBool s.nak ++ BitVec.ofBool s.busy

/-- The command word of the staging registers (R12, R84). -/
def State.cmdWord (s : State) : CmdWord := cmdWordOf s.cmdOp s.cmdA s.cmdB s.cmdF

/-- TWCR.INT, bit 7 (R32). -/
def twcrInt : Byte := 0x80#8

/-- TWCR after the issue of a bus operation (R33). -/
def twcrIssued : BusOp → Byte
  | .start _ => 0x24#8
  | .stop => 0x14#8
  | .write _ _ => 0x04#8
  | .read true => 0x44#8
  | .read false => 0x04#8

/-- TWCR after the completion of a bus operation (R33). -/
def twcrCompleted : BusOp → Byte
  | .start _ => 0xA4#8
  | .stop => 0x04#8
  | .write _ _ => 0x84#8
  | .read true => 0xC4#8
  | .read false => 0x84#8

/-- The legal bus phases of each command (R89). -/
def legalPhase (op : Op) (bph : Phase) : Bool :=
  match op with
  | .pStatus => true
  | .pStart => true
  | .pStop => bph != .idle
  | .pTxaddr => bph == .addr
  | .pTxbyte => bph == .mt || bph == .mtNak
  | .pRxbyte => bph == .mr || bph == .mrNak
  | .pInit => bph == .idle
  | .eWrbyte => bph == .idle
  | .eRdbyte => bph == .idle
  | .eWrpage => bph == .idle
  | .eRdseq => bph == .idle
  | .eWaitrdy => bph == .idle

/-- E.RDSEQ with length 0 (R88); no other command has a length. -/
def lengthZero : Instr → Bool
  | .eRdseq _ n => n == 0#8
  | .pStatus => false
  | .pStart => false
  | .pStop => false
  | .pTxaddr _ _ => false
  | .pTxbyte _ => false
  | .pRxbyte _ => false
  | .pInit _ _ => false
  | .eWrbyte _ _ => false
  | .eRdbyte _ => false
  | .eWrpage _ => false
  | .eWaitrdy => false

/-- The launch checks that follow the decode, in R84's order: LEN_ZERO (R88), then SEQUENCE (R89). `none` is an
accepted launch. -/
def launchError (i : Instr) (bph : Phase) : ErrCode :=
  if lengthZero i then .lenZero
  else if legalPhase i.op bph = false then .sequence
  else .none

/-- The first label of each command's step table (R117, R139). -/
def firstLabel : Op → Label
  | .pStatus => .s0
  | .pStart => .s0
  | .pStop => .s0
  | .pTxaddr => .s0
  | .pTxbyte => .s0
  | .pRxbyte => .s0
  | .pInit => .s0
  | .eWrbyte => .b0
  | .eRdbyte => .b0
  | .eWrpage => .b0
  | .eRdseq => .b0
  | .eWaitrdy => .w0

end Sys2Proof.Machine
end

