-- ==== Sys2Proof/Machine/Operands.lean ====
section
/-! DEFINITION. Operand forms: the device address, the rounded page address and the bytes of BUF (41_eeprom_ops.md R131, R132; 20_memory.md R58). -/

namespace Sys2Proof.Machine

/-- Byte `a` of a memory in canonical form: `MemRead` of R10. -/
def memRead : List Host.Cell → Nat → Byte
  | [], _ => Config.unlistedByte
  | (b, v) :: rest, a => if a = b then v else memRead rest a

/-- Write byte `a`, keeping the canonical form: `MemWrite` of R10. A byte equal to what an unlisted index reads as
is not listed. -/
def memWrite : List Host.Cell → Nat → Byte → List Host.Cell
  | [], a, v => if v = Config.unlistedByte then [] else [(a, v)]
  | (b, w) :: rest, a, v =>
    if a < b then
      if v = Config.unlistedByte then (b, w) :: rest else (a, v) :: (b, w) :: rest
    else if a = b then
      if v = Config.unlistedByte then rest else (a, v) :: rest
    else (b, w) :: memWrite rest a v

/-- Every index from `lo` up, strictly rising, below `hi`, and no entry an unlisted index would give. -/
def memWfFrom (hi : Nat) : Nat → List Host.Cell → Bool
  | _, [] => true
  | lo, (b, v) :: rest =>
    decide (lo ≤ b) && decide (b < hi) && decide (v ≠ Config.unlistedByte) && memWfFrom hi (b + 1) rest

/-- The canonical form of BUF: 256 bytes (R38). -/
def Memory.wf (m : List Host.Cell) : Bool := memWfFrom Config.bufSize 0 m

/-- The memory that holds the bytes `bs` from index `a` up to the end of BUF, and unlisted bytes elsewhere. -/
def memOfBytes : Nat → List Byte → List Host.Cell
  | _, [] => []
  | a, v :: rest => if a < Config.bufSize then memWrite (memOfBytes (a + 1) rest) a v else []

/-- `BUF[i]` (R38): an index is 8 bits, so every index is in range (R57). -/
def State.bufAt (s : State) (i : Byte) : Byte := memRead s.buf i.toNat

/-- `eff(a)`: `a` rounded up to a multiple of PAGE = 8, modulo 256 (R132). -/
def eff (a : Byte) : Byte := BitVec.ofNat 8 ((a.toNat + (Config.page - 1)) / Config.page * Config.page)

/-- Loop index of the next byte (R136, R137). -/
def nextIndex (i : Byte) : Byte := i + 1#8

end Sys2Proof.Machine
end

