-- ==== Sys2Proof/Machine/Ops.lean ====
section
/-! DEFINITION. The named operations every agent and every command share: the bus primitives (40_bus_primitives.md R102 to R109), the rejection of a launch (60_exceptions.md R162), the entry into FAULT (R167), the way out of it (70_reset_and_hazards.md R180), host accesses (20_memory.md R52, R53), and one step of a step table (R100). -/

namespace Sys2Proof.Machine

/-- What a meaning answers. -/
abbrev Result := Host.Outcome State Fault Refusal

/-! ### Named updates -/

/-- ENV gives a response in this step (R101). -/
def answering (r : Response) (s : State) : State := { s with answer := some r }

/-- The response given is taken from the bus, or dropped (log 2, log 3). -/
def dropAnswer (s : State) : State := { s with answer := none }

/-- The moves that remain (log 1). -/
def withMoves (ms : List Move) (s : State) : State := { s with moves := ms }

/-- CMD_OP takes a byte (R84). -/
def setCmdOp (v : Byte) (s : State) : State := { s with cmdOp := v }

/-- CMD_A takes a byte (R24). -/
def setCmdA (v : Byte) (s : State) : State := { s with cmdA := v }

/-- CMD_B takes a byte (R24). -/
def setCmdB (v : Byte) (s : State) : State := { s with cmdB := v }

/-- CMD_F takes a byte (R24). -/
def setCmdF (v : Byte) (s : State) : State := { s with cmdF := v }

/-- RESULT takes a byte (R26). -/
def setResult (v : Byte) (s : State) : State := { s with result := v }

/-- `MemWrite(i, 1, v)` (R10, R58): an index is 8 bits, so it is in range (R57). -/
def setBufAt (i v : Byte) (s : State) : State := { s with buf := memWrite s.buf i.toNat v }

/-- SSTAT.OVR <- 1 (R30). -/
def setOvr (s : State) : State := { s with ovr := true }

/-- SCH takes a value (R41). -/
def setSch (c : Sch) (s : State) : State := { s with sch := c }

/-- µINIT(r, p): TWBR and TWSR.PRESC (R109). -/
def initClock (r : Byte) (p : BitVec 3) (s : State) : State := { s with twbr := r, twsrPresc := p }

/-! ### Bus primitives -/

/-- A bus primitive and its operands (R103 to R107). -/
inductive Prim where
  /-- µSTART (R103). -/
  | start
  /-- µSTOP (R104). -/
  | stop
  /-- µTXADDR(sla, dir), sla[7:1] given (R105). -/
  | txaddr (sla : BitVec 7) (dir : Dir)
  /-- µTXBYTE(d) (R106). -/
  | txbyte (d : Byte)
  /-- µRXBYTE(k) (R107). -/
  | rxbyte (k : Bool)
deriving DecidableEq, Repr

/-- The bus operation a primitive issues in a bus phase (R103 to R107): a start is a repeated start when BPH is not
IDLE. -/
def Prim.busOp (p : Prim) (bph : Phase) : BusOp :=
  match p with
  | .start => .start (bph != .idle)
  | .stop => .stop
  | .txaddr sla dir => .write (addrByte sla dir) (.addr dir)
  | .txbyte d => .write d .data
  | .rxbyte k => .read k

/-- TWDR at the issue of a bus operation: written by µTXADDR and µTXBYTE alone (R34, R102). -/
def twdrIssued (q : BusOp) (twdr : Byte) : Byte :=
  match q with
  | .start _ => twdr
  | .stop => twdr
  | .write b _ => b
  | .read _ => twdr

/-- The issue of a bus primitive (R102): PEND, TWCR, TWSR.CODE = NO_INFO, TWDR. -/
def issue (p : Prim) (s : State) : State :=
  let q := p.busOp s.bph
  { s with
    pend := some q
    twcr := twcrIssued q
    twsrCode := Status.noInfo.code s.params.codes
    twdr := twdrIssued q s.twdr }

/-- What the completion of a bus operation leaves (R103 to R107). -/
structure Done where
  status : Status
  bph : Phase
  twdr : Byte
  event : BusEvent
deriving DecidableEq, Repr

/-- What a response does to the operation in flight: completes it, reports a bus fault, or is no response of its set
(R101). -/
inductive Answered where
  | completes (d : Done)
  | faults (c : Status)
  | notAResponse
deriving DecidableEq, Repr

/-- The status and the bus phase an address byte leaves (R35, R40, R105). -/
def addrDone (dir : Dir) (ack : Bool) : Status × Phase :=
  match dir, ack with
  | .w, true => (.slaWAck, .mt)
  | .w, false => (.slaWNack, .mtNak)
  | .r, true => (.slaRAck, .mr)
  | .r, false => (.slaRNack, .mrNak)

/-- The completion of a write operation (R105, R106). The byte is in TWDR since the issue, so TWDR stays. -/
def writeDone (b : Byte) (kind : WriteKind) (ack : Bool) (bph : Phase) (twdr : Byte) : Done :=
  match kind with
  | .addr dir => ⟨(addrDone dir ack).1, (addrDone dir ack).2, twdr, .write b ack⟩
  | .data => ⟨if ack then .dataTxAck else .dataTxNack, bph, twdr, .write b ack⟩

/-- The response set of each operation (R101) and what each response does, BPH and TWDR as they stand. -/
def answered (q : BusOp) (r : Response) (bph : Phase) (twdr : Byte) : Answered :=
  match q, r with
  | .start rep, .ok =>
    .completes ⟨if rep then .repStart else .start, .addr, twdr, if rep then .repStart else .start⟩
  | .start _, .arbLost => .faults .arbLost
  | .start _, .busError => .faults .busError
  | .stop, .ok => .completes ⟨.noInfo, .idle, twdr, .stop⟩
  | .write b kind, .ack => .completes (writeDone b kind true bph twdr)
  | .write b kind, .nack => .completes (writeDone b kind false bph twdr)
  | .write _ _, .arbLost => .faults .arbLost
  | .write _ _, .busError => .faults .busError
  | .read k, .data v => .completes ⟨if k then .dataRxAck else .dataRxNack, bph, v, .read v k⟩
  | .read _, .arbLost => .faults .arbLost
  | .read _, .busError => .faults .busError
  | _, _ => .notAResponse

/-- The completion effects of a bus operation (R102): TWCR, TWSR.CODE, TWDR, BPH, PEND = none and the bus event. -/
def completed (q : BusOp) (d : Done) (s : State) : State :=
  { s with
    twcr := twcrCompleted q
    twsrCode := d.status.code s.params.codes
    twdr := d.twdr
    bph := d.bph
    pend := none
    answer := none
    trace := s.trace ++ [d.event] }

/-! ### Exceptions and the way out of them -/

/-- The rejection of a launch, the block's one synchronous exception (R162): ERRCODE takes the code. CMD_OP already
holds the byte written (R84). -/
def reject (code : ErrCode) (s : State) : State := { s with errcode := code }

/-- FAULT entry (R167): TWSR.CODE takes ARB_LOST or BUS_ERROR, TWCR.INT is set, PEND is none, SCH is S_FAULT, and the
trace takes the event. -/
def enterFault (c : Status) (s : State) : State :=
  { s with
    twsrCode := c.code s.params.codes
    twcr := s.twcr ||| twcrInt
    pend := none
    answer := none
    sch := .fault
    trace := s.trace ++ [.fault (c.value s.params.codes)] }

/-- RST asserted and released (R180): every piece of state at its reset value, BUF at any contents (U1). The way out
of S_FAULT. The moves still to be made, what the outside has seen and the parameters are no state of the block. -/
def applyReset (contents : List Byte) (s : State) : State :=
  { State.resetWith s.params with
    buf := memOfBytes 0 contents
    moves := s.moves
    trace := s.trace
    reads := s.reads }

/-! ### Host accesses -/

/-- What a host read of an address returns (R51, R52, R54). -/
def hostValue (h : HAddr) (s : State) : Byte :=
  if 0x100 ≤ h.toNat then s.bufAt (h.extractLsb' 0 8)
  else
    match h.toNat with
    | 0x000 => s.cmdOp
    | 0x001 => s.cmdA
    | 0x002 => s.cmdB
    | 0x003 => s.cmdF
    | 0x004 => s.result
    | 0x005 => s.sstat
    | 0x006 => s.twcr
    | 0x007 => s.twdr
    | 0x008 => s.twsr
    | 0x009 => s.twbr
    | _ => 0x00#8

/-- A host read (R52): no side effect on the block; the log of reads is the model's own (log 7). -/
def hostRead (h : HAddr) (s : State) : State := { s with reads := s.reads ++ [(h, hostValue h s)] }

/-- A host write of SSTAT: write-1-to-clear of NAK and OVR (R27). -/
def writeSstat (v : Byte) (s : State) : State :=
  { s with nak := s.nak && !v.getLsbD 1, ovr := s.ovr && !v.getLsbD 2 }

/-- A host write of a BUF byte (R53): dropped and recorded in OVR while BUSY = 1. -/
def writeBuf (i : Byte) (v : Byte) (s : State) : State :=
  if s.busy then setOvr s else setBufAt i v s

/-- A host write that launches nothing (R23, R53): to CMD_OP it is dropped and recorded in OVR, as while BUSY = 1. -/
def hostWrite (h : HAddr) (v : Byte) (s : State) : State :=
  if 0x100 ≤ h.toNat then writeBuf (h.extractLsb' 0 8) v s
  else
    match h.toNat with
    | 0x000 => setOvr s
    | 0x001 => setCmdA v s
    | 0x002 => setCmdB v s
    | 0x003 => setCmdF v s
    | 0x005 => writeSstat v s
    | _ => s

/-! ### Step tables -/

/-- Where a completion action puts a received byte (R115, R135, R137). -/
inductive Dest where
  | drop
  | result
  | buf (i : Byte)
deriving DecidableEq, Repr

/-- The completion action of an issue label (R100): whether `nak(r)` stands in it, where a received byte goes, and
the next label with its loop index. -/
structure After where
  nak : Bool
  dest : Dest
  next : Label
  i : Byte
deriving DecidableEq, Repr

/-- The action of a label (R100): an issue label, one of the internal labels, or END. -/
inductive Action where
  /-- Issue a primitive; on completion, do the rest. -/
  | issue (p : Prim) (after : After)
  /-- RESULT <- µSTATUS(); next END (R110). -/
  | readStatus
  /-- µINIT(r, p); next END (R109, R116). -/
  | init (r : Byte) (p : BitVec 3)
  /-- if µSTATUS() = SLA_W_ACK then next W3 else next W0 (R133). -/
  | pollCheck
  /-- END: SCH <- S_IDLE (R100). -/
  | finish
deriving DecidableEq, Repr

/-- `nak(r)`: if r = NACK then SSTAT.NAK <- 1 (R29, R134). -/
def recordNak (wanted : Bool) (r : Response) (s : State) : State :=
  { s with nak := s.nak || (wanted && r == .nack) }

/-- Put a received byte where the completion action says (R115, R135, R137). -/
def storeByte (dest : Dest) (r : Response) (s : State) : State :=
  match dest, r with
  | .result, .data v => setResult v s
  | .buf i, .data v => setBufAt i v s
  | _, _ => s

/-- The next label (R41). -/
def goto (op : Op) (l : Label) (i : Byte) (s : State) : State := setSch (.run op l i) s

/-- The BLOCK step of a label (R100). -/
def blockAction (op : Op) (i : Byte) (a : Action) (s : State) : State :=
  match a with
  | .issue p _ => issue p s
  | .readStatus => goto op .fin i (setResult s.status s)
  | .init r p => goto op .fin i (initClock r p s)
  | .pollCheck => goto op (if s.status = Status.slaWAck.value s.params.codes then .w3 else .w0) i s
  | .finish => setSch .idle s

/-- The ENV step (R100): the completion effects, then the completion action of the issuing label; or the entry into
FAULT, after which no completion action runs (R101). A response outside the set is no answer (log 2). -/
def envAction (op : Op) (after : After) (q : BusOp) (r : Response) (s : State) : State :=
  match answered q r s.bph s.twdr with
  | .completes d => goto op after.next after.i (storeByte after.dest r (recordNak after.nak r (completed q d s)))
  | .faults c => enterFault c s
  | .notAResponse => dropAnswer s

/-- The step of the running command at a label whose action is `act`: a BLOCK step with nothing in flight, an ENV step
with an operation in flight and its answer given, and no step while the block waits (R42, R100). -/
def tableStep (op : Op) (i : Byte) (act : Option Action) (s : State) : Result :=
  match act with
  | none => .fault .noSuchLabel
  | some a =>
    match s.pend, s.answer with
    | none, none => .next (blockAction op i a s)
    | none, some _ => .next (dropAnswer s)
    | some _, none => .next s
    | some q, some r =>
      match a with
      | .issue _ after => .next (envAction op after q r s)
      | _ => .fault .strayOperation

/-- An accepted launch (R84): ERRCODE <- 0, LC <- CW, SCH <- S_RUN(row, first label, 0). -/
def accept (op : Op) (s : State) : State :=
  { s with errcode := .none, lc := s.cmdWord, sch := .run op (firstLabel op) 0#8 }

/-- A launch after its decode (R84): the checks LEN_ZERO and SEQUENCE, then the acceptance. -/
def launch (i : Instr) (s : State) : State :=
  match launchError i s.bph with
  | .none => accept i.op s
  | code => reject code s

/-- A command in the state it is asked for (log 13): launched at S_IDLE (R84), stepped through its table while it runs
(R100), and nothing in S_FAULT, where no step is enabled (R43). -/
def command (i : Instr) (table : State → Label → Byte → Option Action) (s : State) : Result :=
  match s.sch with
  | .idle => .next (launch i s)
  | .run op l k => if op = i.op then tableStep op k (table s l k) s else .fault .otherCommandRunning
  | .fault => .next s

end Sys2Proof.Machine
end

