-- ==== Sys2Proof/Machine/Eeprom.lean ====
section
/-! DEFINITION. The E commands: the step table and the meaning of each (41_eeprom_ops.md R130 to R139). -/

namespace Sys2Proof.Machine

/-- µTXADDR(SLAW, W): SLAW = {P_EE_SLA7, 0} (R131). -/
def sendSlaW (s : State) : Prim := .txaddr s.params.eeSla7 .w

/-- µTXADDR(SLAR, R): SLAR = {P_EE_SLA7, 1} (R131). -/
def sendSlaR (s : State) : Prim := .txaddr s.params.eeSla7 .r

/-- A completion action that only goes to the next label. -/
def andThen (l : Label) (i : Byte) : After := ⟨false, .drop, l, i⟩

/-- A completion action `nak(r); next l` (R134). -/
def nakThen (l : Label) (i : Byte) : After := ⟨true, .drop, l, i⟩

/-- A completion action that stores the received byte and goes to the next label. -/
def keepThen (dest : Dest) (l : Label) (i : Byte) : After := ⟨false, dest, l, i⟩

/-- The write-completion poll W0 to W3, and END after it (R133). A not-acknowledge in it does not set SSTAT.NAK. -/
def pollTable (s : State) (l : Label) (i : Byte) : Option Action :=
  match l with
  | .w0 => some (.issue .start (andThen .w1 i))
  | .w1 => some (.issue (sendSlaW s) (andThen .w2 i))
  | .w2 => some .pollCheck
  | .w3 => some (.issue .stop (andThen .fin i))
  | .fin => some .finish
  | _ => none

/-- E.WRBYTE (R134, R139). -/
def tableEWrbyte (maddr data : Byte) (s : State) (l : Label) (i : Byte) : Option Action :=
  match l with
  | .b0 => some (.issue .start (andThen .b1 i))
  | .b1 => some (.issue (sendSlaW s) (nakThen .b2 i))
  | .b2 => some (.issue (.txbyte maddr) (nakThen .b3 i))
  | .b3 => some (.issue (.txbyte data) (nakThen .b4 i))
  | .b4 => some (.issue .stop (andThen .w0 i))
  | _ => pollTable s l i

/-- E.RDBYTE (R135, R139). -/
def tableERdbyte (maddr : Byte) (s : State) (l : Label) (i : Byte) : Option Action :=
  match l with
  | .b0 => some (.issue .start (andThen .b1 i))
  | .b1 => some (.issue (sendSlaW s) (nakThen .b2 i))
  | .b2 => some (.issue (.txbyte maddr) (nakThen .b3 i))
  | .b3 => some (.issue .start (andThen .b4 i))
  | .b4 => some (.issue (sendSlaR s) (nakThen .b5 i))
  | .b5 => some (.issue (.rxbyte false) (keepThen .result .b6 i))
  | .b6 => some (.issue .stop (andThen .fin i))
  | .fin => some .finish
  | _ => none

/-- E.WRPAGE (R136, R139): the memory address is rounded up, and BUF[i] is read at the issue of each data byte
(R58). -/
def tableEWrpage (maddr : Byte) (s : State) (l : Label) (i : Byte) : Option Action :=
  match l with
  | .b0 => some (.issue .start (andThen .b1 i))
  | .b1 => some (.issue (sendSlaW s) (nakThen .b2 i))
  | .b2 => some (.issue (.txbyte (eff maddr)) (nakThen .b3 0#8))
  | .b3 =>
    some (.issue (.txbyte (s.bufAt i)) (if i.toNat < Config.page - 1 then nakThen .b3 (nextIndex i) else nakThen .b4 i))
  | .b4 => some (.issue .stop (andThen .w0 i))
  | _ => pollTable s l i

/-- E.RDSEQ (R137, R139): n - 1 acknowledged receives, then one not acknowledged. -/
def tableERdseq (maddr n : Byte) (s : State) (l : Label) (i : Byte) : Option Action :=
  match l with
  | .b0 => some (.issue .start (andThen .b1 i))
  | .b1 => some (.issue (sendSlaW s) (nakThen .b2 i))
  | .b2 => some (.issue (.txbyte maddr) (nakThen .b3 i))
  | .b3 => some (.issue .start (andThen .b4 i))
  | .b4 => some (.issue (sendSlaR s) (nakThen (if 2 ≤ n.toNat then .b5 else .b6) 0#8))
  | .b5 =>
    some (.issue (.rxbyte true)
      (keepThen (.buf i) (if i.toNat + 1 < n.toNat - 1 then .b5 else .b6) (nextIndex i)))
  | .b6 => some (.issue (.rxbyte false) (keepThen (.buf (n - 1#8)) .b7 i))
  | .b7 => some (.issue .stop (andThen .fin i))
  | .fin => some .finish
  | _ => none

/-- E.WAITRDY (R138, R139). -/
def tableEWaitrdy (s : State) (l : Label) (i : Byte) : Option Action := pollTable s l i

/-- E.WRBYTE (R134). -/
def execEWrbyte (maddr data : Byte) (s : State) : Result :=
  command (.eWrbyte maddr data) (tableEWrbyte maddr data) s

/-- E.RDBYTE (R135). -/
def execERdbyte (maddr : Byte) (s : State) : Result := command (.eRdbyte maddr) (tableERdbyte maddr) s

/-- E.WRPAGE (R136). -/
def execEWrpage (maddr : Byte) (s : State) : Result := command (.eWrpage maddr) (tableEWrpage maddr) s

/-- E.RDSEQ (R137). -/
def execERdseq (maddr n : Byte) (s : State) : Result := command (.eRdseq maddr n) (tableERdseq maddr n) s

/-- E.WAITRDY (R138). -/
def execEWaitrdy (s : State) : Result := command .eWaitrdy tableEWaitrdy s

end Sys2Proof.Machine
end

