-- ==== Sys2Proof/Machine/Primitives.lean ====
section
/-! DEFINITION. The P commands: the step table and the meaning of each (40_bus_primitives.md R110 to R117). -/

namespace Sys2Proof.Machine

/-- A completion action that only goes to END (R111 to R114). -/
def toEnd (i : Byte) : After := ⟨false, .drop, .fin, i⟩

/-- The labels S0 and END of a P command whose S0 has the action `act` (R117). -/
def primitiveTable (act : Byte → Action) (l : Label) (i : Byte) : Option Action :=
  match l with
  | .s0 => some (act i)
  | .fin => some .finish
  | _ => none

/-- P.STATUS (R110). -/
def tablePStatus (_ : State) : Label → Byte → Option Action := primitiveTable fun _ => .readStatus

/-- P.START (R111). -/
def tablePStart (_ : State) : Label → Byte → Option Action := primitiveTable fun i => .issue .start (toEnd i)

/-- P.STOP (R112). -/
def tablePStop (_ : State) : Label → Byte → Option Action := primitiveTable fun i => .issue .stop (toEnd i)

/-- P.TXADDR (R113): SSTAT.NAK is not written. -/
def tablePTxaddr (sla : BitVec 7) (dir : Dir) (_ : State) : Label → Byte → Option Action :=
  primitiveTable fun i => .issue (.txaddr sla dir) (toEnd i)

/-- P.TXBYTE (R114): SSTAT.NAK is not written (R29). -/
def tablePTxbyte (data : Byte) (_ : State) : Label → Byte → Option Action :=
  primitiveTable fun i => .issue (.txbyte data) (toEnd i)

/-- P.RXBYTE (R115): RESULT <- v. -/
def tablePRxbyte (ack : Bool) (_ : State) : Label → Byte → Option Action :=
  primitiveTable fun i => .issue (.rxbyte ack) ⟨false, .result, .fin, i⟩

/-- P.INIT (R116). -/
def tablePInit (bitrate : Byte) (presc : BitVec 3) (_ : State) : Label → Byte → Option Action :=
  primitiveTable fun _ => .init bitrate presc

/-- P.STATUS (R110). -/
def execPStatus (s : State) : Result := command .pStatus tablePStatus s

/-- P.START (R111). -/
def execPStart (s : State) : Result := command .pStart tablePStart s

/-- P.STOP (R112). -/
def execPStop (s : State) : Result := command .pStop tablePStop s

/-- P.TXADDR (R113). -/
def execPTxaddr (sla : BitVec 7) (dir : Dir) (s : State) : Result :=
  command (.pTxaddr sla dir) (tablePTxaddr sla dir) s

/-- P.TXBYTE (R114). -/
def execPTxbyte (data : Byte) (s : State) : Result := command (.pTxbyte data) (tablePTxbyte data) s

/-- P.RXBYTE (R115). -/
def execPRxbyte (ack : Bool) (s : State) : Result := command (.pRxbyte ack) (tablePRxbyte ack) s

/-- P.INIT (R116). -/
def execPInit (bitrate : Byte) (presc : BitVec 3) (s : State) : Result :=
  command (.pInit bitrate presc) (tablePInit bitrate presc) s

end Sys2Proof.Machine
end

