-- ==== Sys2Proof/Machine/Dispatch.lean ====
section
/-! DEFINITION. One arm per command (30_encoding.md R83). -/

namespace Sys2Proof.Machine

def exec (i : Instr) (s : State) : Host.Outcome State Fault Refusal :=
  match i with
  | .pStatus => Sys2Proof.Machine.execPStatus s
  | .pStart => Sys2Proof.Machine.execPStart s
  | .pStop => Sys2Proof.Machine.execPStop s
  | .pTxaddr sla dir => Sys2Proof.Machine.execPTxaddr sla dir s
  | .pTxbyte data => Sys2Proof.Machine.execPTxbyte data s
  | .pRxbyte ack => Sys2Proof.Machine.execPRxbyte ack s
  | .pInit bitrate presc => Sys2Proof.Machine.execPInit bitrate presc s
  | .eWrbyte maddr data => Sys2Proof.Machine.execEWrbyte maddr data s
  | .eRdbyte maddr => Sys2Proof.Machine.execERdbyte maddr s
  | .eWrpage maddr => Sys2Proof.Machine.execEWrpage maddr s
  | .eRdseq maddr n => Sys2Proof.Machine.execERdseq maddr n s
  | .eWaitrdy => Sys2Proof.Machine.execEWaitrdy s

end Sys2Proof.Machine
end

