-- ==== Sys2Proof/Machine/Agents.lean ====
section
/-! DEFINITION. The step of each agent (40_bus_primitives.md R100) and the staging of a command word (30_encoding.md R84). -/

namespace Sys2Proof.Machine

/-- A write of CMD_OP while BUSY = 0 (R84): CMD_OP takes the byte, the staged word is decoded, and the command is
launched or the launch rejected. -/
def launchWrite (v : Byte) (s : State) : Result :=
  match decode (setCmdOp v s).cmdWord with
  | .command i => exec i (setCmdOp v s)
  | .illegalOp => .next (reject .illegalOp (setCmdOp v s))
  | .reservedField => .next (reject .reservedField (setCmdOp v s))

/-- A host write (R53): at CMD_OP with BUSY = 0 it launches. -/
def hostWriteStep (h : HAddr) (v : Byte) (s : State) : Result :=
  if h = 0x000#9 ∧ s.busy = false then launchWrite v s else .next (hostWrite h v s)

/-- The step of the running command, the one LC holds (R25, R100). No step is enabled in S_IDLE and S_FAULT. -/
def runningStep (s : State) : Result :=
  match s.sch with
  | .idle => .next s
  | .fault => .next s
  | .run _ _ _ =>
    match decode s.lc with
    | .command i => exec i s
    | .illegalOp => .fault .latchUndecodable
    | .reservedField => .fault .latchUndecodable

/-- The ENV step: enabled while an operation is in flight (R100). -/
def envStep (r : Response) (s : State) : Result :=
  match s.sch, s.pend with
  | .run _ _ _, some _ => runningStep (answering r s)
  | _, _ => .next s

/-- The step of the agent a move names (R100). A move that is not enabled has no effect (log 2). -/
def moveStep (m : Move) (s : State) : Result :=
  match m with
  | .hostRead h => .next (hostRead h s)
  | .hostWrite h v => hostWriteStep h v s
  | .block => runningStep s
  | .env r => envStep r s
  | .rst contents => .next (applyReset contents s)

/-- The staging registers of a command word filled, and the write of CMD_OP that launches it placed as the next move
(R80, R84). A launch needs BUSY = 0, so SCH and PEND are put at rest (log 10). -/
def stageWord (cw : CmdWord) (s : State) : State :=
  { s with
    cmdA := cwA cw
    cmdB := cwB cw
    cmdF := cwF cw
    sch := .idle
    pend := none
    answer := none
    moves := .hostWrite 0x000#9 (cwOp cw) :: s.moves }

end Sys2Proof.Machine
end

