-- ==== Sys2Proof/Machine/Step.lean ====
section
/-! DEFINITION. One step of the machine: the next move (40_bus_primitives.md R100). -/

namespace Sys2Proof.Machine

/-- The first move of the list is made. With no move left nobody acts: the block waits (R101, R182). -/
def step (s : State) : Host.Outcome State Fault Refusal :=
  match s.moves with
  | [] => .next s
  | m :: rest => moveStep m (withMoves rest s)

/-- `s` with a table word staged so that the very next step launches it (log 10). -/
def State.withFetchWord (s : State) (_nbits w : Nat) : State := stageWord (BitVec.ofNat 32 w) s

end Sys2Proof.Machine
end

