-- ==== Sys2Proof/Machine/Asm.lean ====
section
/-! DEFINITION. The assembler and the disassembler of 30_encoding.md R92 to R99. -/

namespace Sys2Proof.Asm

/-- A token of a line: a word, a comma, or a character operand (R92). -/
inductive Token where
  | word (cs : List Char)
  | comma
  | chr (c : Char)
deriving DecidableEq, Repr

/-- The quote of a character operand. -/
def quote : Char := Char.ofNat 39

/-- The word read so far, given with its last character first. -/
def flush (acc : List Char) : List Token := if acc = [] then [] else [.word acc.reverse]

/-- A space, a tab or a carriage return: the spec names no separator (log 18). -/
def isBlank (c : Char) : Bool := c == ' ' || c == Char.ofNat 9 || c == Char.ofNat 13

/-- The tokens of a line; a semicolon outside a character operand starts a comment (R92). DESIGN CHOICE (log 18): R92
does not say what must stand between a mnemonic and an operand. A character operand is a token wherever it begins, with
no separator before or after it, so P.TXBYTE'E' is read as P.TXBYTE 'E'; blanks at the ends of a line and on either side
of a comma are optional. -/
def tokens : List Char → List Char → List Token
  | [], acc => flush acc
  | [c], acc =>
    if c = ';' then flush acc
    else if c = ',' then flush acc ++ [.comma]
    else if isBlank c then flush acc
    else flush (c :: acc)
  | [c, d], acc =>
    if c = ';' then flush acc
    else if c = ',' then flush acc ++ .comma :: tokens [d] []
    else if isBlank c then flush acc ++ tokens [d] []
    else tokens [d] (c :: acc)
  | c :: d :: e :: rest, acc =>
    if c = ';' then flush acc
    else if c = quote ∧ e = quote then flush acc ++ .chr d :: tokens rest []
    else if c = ',' then flush acc ++ .comma :: tokens (d :: e :: rest) []
    else if isBlank c then flush acc ++ tokens (d :: e :: rest) []
    else tokens (d :: e :: rest) (c :: acc)

/-- The digits 0 to 9, as an operand writes them (R92). -/
def decimalDigits : List Char := "0123456789".toList

/-- The hexadecimal digits in capitals, as R96 and R99 print them. -/
def capitalDigits : List Char := decimalDigits ++ "ABCDEF".toList

/-- The hexadecimal digits in small letters, which the assembler reads too (log 18). -/
def smallDigits : List Char := decimalDigits ++ "abcdef".toList

/-- The value of a hexadecimal digit: its place among the digits, in either case (log 18). -/
def hexDigit (c : Char) : Option Nat := (capitalDigits.idxOf? c).or (smallDigits.idxOf? c)

/-- The number a list of digits writes in a base, the digits so far being worth `n`. -/
def number (base : Nat) : List Char → Nat → Option Nat
  | [], n => some n
  | c :: rest, n =>
    match hexDigit c with
    | none => none
    | some d => if d < base then number base rest (n * base + d) else none

/-- An operand: a number or a keyword (R92, R93). -/
inductive Operand where
  | num (n : Nat)
  | dir (d : Dir)
  | ack (k : Bool)
deriving DecidableEq, Repr

/-- The operand a token writes: decimal, hexadecimal with 0x, a character, or a keyword (R92, R93). A character operand
stands for its ASCII code (R92). DESIGN CHOICE (log 19): for a character outside ASCII, of which R92 says nothing, its
Unicode code point is taken, so 128 to 255 pass R94's check of a byte and a greater one is refused by it. -/
def operand : Token → Option Operand
  | .comma => none
  | .chr c => some (.num c.toNat)
  | .word cs =>
    if cs = ['W'] then some (.dir .w)
    else if cs = ['R'] then some (.dir .r)
    else if cs = "ACK".toList then some (.ack true)
    else if cs = "NACK".toList then some (.ack false)
    else
      match cs with
      | [] => none
      | '0' :: 'x' :: c :: rest => (number 16 (c :: rest) 0).map .num
      | c :: rest => (number 10 (c :: rest) 0).map .num

/-- The operands of a command, one comma between two of them (R92). -/
def operandList : List Token → Option (List Operand)
  | [] => some []
  | [t] => (operand t).map fun o => [o]
  | t :: .comma :: u :: rest =>
    match operand t, operandList (u :: rest) with
    | some o, some os => some (o :: os)
    | _, _ => none
  | _ => none

/-- A byte operand, 0 to 255, the line refused otherwise (R94). -/
def byteOf (n : Nat) : Option Byte := if n ≤ 255 then some (BitVec.ofNat 8 n) else none

/-- P.INIT's prescaler, 0 to 7 (R94). -/
def prescOf (n : Nat) : Option (BitVec 3) := if n ≤ 7 then some (BitVec.ofNat 3 n) else none

/-- E.RDSEQ's length, 1 to 255 (R94). -/
def lengthOf (n : Nat) : Option Byte := if 1 ≤ n then byteOf n else none

/-- The slave address of an address byte: sla[7:1] (R82, R96). -/
def slaOf (n : Nat) : Option (BitVec 7) := (byteOf n).map fun b => b.extractLsb' 1 7

/-- The command that a mnemonic and its operands write (R96), the pseudo-instructions among them (R97). -/
def command (mnemonic : String) (ops : List Operand) : Option Instr :=
  match mnemonic, ops with
  | "P.STATUS", [] => some .pStatus
  | "P.START", [] => some .pStart
  | "P.STOP", [] => some .pStop
  | "P.TXADDR", [.num sla, .dir d] => (slaOf sla).map fun s => .pTxaddr s d
  | "P.TXBYTE", [.num n] => (byteOf n).map .pTxbyte
  | "P.RXBYTE", [.ack k] => some (.pRxbyte k)
  | "P.INIT", [.num r, .num p] => (byteOf r).bind fun r' => (prescOf p).map (.pInit r')
  | "E.WRBYTE", [.num a, .num d] => (byteOf a).bind fun a' => (byteOf d).map (.eWrbyte a')
  | "E.RDBYTE", [.num a] => (byteOf a).map .eRdbyte
  | "E.WRPAGE", [.num a] => (byteOf a).map .eWrpage
  | "E.RDSEQ", [.num a, .num n] => (byteOf a).bind fun a' => (lengthOf n).map (.eRdseq a')
  | "E.WAITRDY", [] => some .eWaitrdy
  | "P.SLAW", [.num sla] => (slaOf sla).map fun s => .pTxaddr s .w
  | "P.SLAR", [.num sla] => (slaOf sla).map fun s => .pTxaddr s .r
  | "P.RXACK", [] => some (.pRxbyte true)
  | "P.RXNACK", [] => some (.pRxbyte false)
  | "P.RSTART", [] => some .pStart
  | _, _ => none

/-- The command a line writes (R92); `none` where the assembler refuses the line. DESIGN CHOICE (log 19): a line that
is blank or holds only a comment, of which R92 says nothing, writes no command and answers `none` too. -/
def parseLine (line : String) : Option Instr :=
  match tokens line.toList [] with
  | .word m :: rest => (operandList rest).bind (command (String.ofList m))
  | _ => none

/-- The command word of a line (R95, R96). -/
def assemble (line : String) : Option CmdWord := (parseLine line).map encode

/-- A hexadecimal digit, capital as in R99. -/
def hexChar (n : Nat) : Char := capitalDigits.getD n '0'

/-- The lowest `k` hexadecimal digits of a number, the highest first. -/
def hexDigits : Nat → Nat → List Char
  | 0, _ => []
  | k + 1, n => hexDigits k (n / 16) ++ [hexChar (n % 16)]

/-- A byte printed in hexadecimal, as 95_test_vectors.md prints addresses and data (log 18). -/
def hexByte (b : Byte) : List Char := "0x".toList ++ hexDigits 2 b.toNat

/-- A number below 256 printed in decimal, as 95_test_vectors.md prints lengths and clock operands (log 18). -/
def decNum (n : Nat) : List Char :=
  (if 100 ≤ n then [hexChar (n / 100)] else []) ++ (if 10 ≤ n then [hexChar (n / 10 % 10)] else []) ++ [hexChar (n % 10)]

/-- A command printed in the syntax of R96 (R99). -/
def printInstr : Instr → List Char
  | .pStatus => "P.STATUS".toList
  | .pStart => "P.START".toList
  | .pStop => "P.STOP".toList
  | .pTxaddr sla dir =>
    "P.TXADDR ".toList ++ hexByte (addrByte sla .w) ++ ", ".toList ++ (match dir with | .w => ['W'] | .r => ['R'])
  | .pTxbyte data => "P.TXBYTE ".toList ++ hexByte data
  | .pRxbyte ack => "P.RXBYTE ".toList ++ (if ack then "ACK".toList else "NACK".toList)
  | .pInit bitrate presc => "P.INIT ".toList ++ decNum bitrate.toNat ++ ", ".toList ++ decNum presc.toNat
  | .eWrbyte maddr data => "E.WRBYTE ".toList ++ hexByte maddr ++ ", ".toList ++ hexByte data
  | .eRdbyte maddr => "E.RDBYTE ".toList ++ hexByte maddr
  | .eWrpage maddr => "E.WRPAGE ".toList ++ hexByte maddr
  | .eRdseq maddr n => "E.RDSEQ ".toList ++ hexByte maddr ++ ", ".toList ++ decNum n.toNat
  | .eWaitrdy => "E.WAITRDY".toList

/-- A command word printed (R99): its command, `.illegal` where no row has its OP, `.reserved` where a must-be-zero
bit is set. -/
def disassemble (cw : CmdWord) : String :=
  match decode cw with
  | .command i => String.ofList (printInstr i)
  | .illegalOp => String.ofList (".illegal 0x".toList ++ hexDigits 8 cw.toNat)
  | .reservedField => String.ofList (".reserved 0x".toList ++ hexDigits 8 cw.toNat)

end Sys2Proof.Asm
end

