-- ==== Sys2Proof/Machine/RefDev.lean ====
section
/-! DEFINITION. REFDEV, the reference EEPROM of 20_memory.md R66 to R71: one ENV, for test vectors, and no part of the block (R66). -/

namespace Sys2Proof.Machine

/-- DMODE (R67). -/
inductive DevMode where
  | idle
  | addr
  | wa
  | wd
  | rd
  | off
deriving DecidableEq, Repr

/-- REFDEV's state (R67), with its parameters (R66). -/
structure RefDev where
  /-- P_EE_SLA7 as the device has it (R66). -/
  sla : BitVec 7
  /-- MEM[0..255] in the canonical form of BUF. -/
  mem : List Host.Cell
  /-- PTR. -/
  ptr : Byte
  /-- DMODE. -/
  mode : DevMode
  /-- PW, the pending writes, oldest first. -/
  pw : List (Byte × Byte)
  /-- BUSYN, the address attempts still to be refused. -/
  busyn : Nat
  /-- T_WR: the draws of the commits to come, one each; a commit past the last draw takes 0 (log 15). -/
  twr : List Nat
deriving DecidableEq, Repr

/-- The initial state (R67) with the memory and the draws a vector states. -/
def RefDev.initial (sla : BitVec 7) (mem : List Host.Cell) (twr : List Nat) : RefDev :=
  ⟨sla, mem, 0x00#8, .idle, [], 0, twr⟩

/-- REFDEV on `S` or `Sr` (R68). -/
def RefDev.onStart (d : RefDev) : RefDev :=
  { d with pw := if d.mode = .wd then [] else d.pw, mode := .addr }

/-- The pointer after a received data byte: it rolls over inside the 8-byte page (R69). -/
def pageNext (ptr : Byte) : Byte := (ptr &&& 0xF8#8) ||| ((ptr + 1#8) &&& 0x07#8)

/-- REFDEV on a master write of byte `b` (R69): the acknowledge and the new state. -/
def RefDev.onWrite (b : Byte) (d : RefDev) : Bool × RefDev :=
  match d.mode with
  | .addr =>
    if b.extractLsb' 1 7 ≠ d.sla then (false, { d with mode := .off })
    else if 0 < d.busyn then (false, { d with busyn := d.busyn - 1, mode := .off })
    else (true, { d with mode := if b.getLsbD 0 then .rd else .wa })
  | .wa => (true, { d with ptr := b, mode := .wd })
  | .wd => (true, { d with pw := d.pw.filter (fun e => e.1 ≠ d.ptr) ++ [(d.ptr, b)], ptr := pageNext d.ptr })
  | .idle => (false, d)
  | .rd => (false, d)
  | .off => (false, d)

/-- REFDEV on a master read with master acknowledge bit `k` (R70): the byte and the new state. -/
def RefDev.onRead (k : Bool) (d : RefDev) : Byte × RefDev :=
  match d.mode with
  | .rd => (memRead d.mem d.ptr.toNat, { d with ptr := d.ptr + 1#8, mode := if k then .rd else .off })
  | .idle => (0xFF#8, d)
  | .addr => (0xFF#8, d)
  | .wa => (0xFF#8, d)
  | .wd => (0xFF#8, d)
  | .off => (0xFF#8, d)

/-- The pending writes applied in order (R71). -/
def applyWrites (pw : List (Byte × Byte)) (mem : List Host.Cell) : List Host.Cell :=
  pw.foldl (fun m e => memWrite m e.1.toNat e.2) mem

/-- REFDEV on `P` (R71): a pending list is committed and the write cycle begins. -/
def RefDev.onStop (d : RefDev) : RefDev :=
  if d.pw = [] then { d with mode := .idle }
  else
    { d with
      mem := applyWrites d.pw d.mem
      pw := []
      busyn := d.twr.headD 0
      twr := d.twr.tail
      mode := .idle }

/-- REFDEV's response to a bus operation, and its state after it (R68 to R71). -/
def RefDev.respond (q : BusOp) (d : RefDev) : Response × RefDev :=
  match q with
  | .start _ => (.ok, d.onStart)
  | .stop => (.ok, d.onStop)
  | .write b _ => (if (d.onWrite b).1 then .ack else .nack, (d.onWrite b).2)
  | .read k => (.data (d.onRead k).1, (d.onRead k).2)

end Sys2Proof.Machine
end

