-- ==== Sys2Proof/Machine/Bench.lean ====
section
/-! DEFINITION. The test bench of 95_test_vectors.md: a host program in the notation of 30_encoding.md R98, the block, and REFDEV as ENV. It makes the moves of one interleaving; the block's step is Machine/Step.lean's. -/

namespace Sys2Proof.Machine

/-- A host program's operations (R98). -/
inductive HostOp where
  /-- `HR h`. -/
  | read (h : HAddr)
  /-- `HW h, v`. -/
  | write (h : HAddr) (v : Byte)
  /-- `WAITIDLE`: `HR 0x005` repeated until bit 0 of the value read is 0. -/
  | waitIdle
deriving DecidableEq, Repr

/-- `HW 0x003, F; HW 0x002, B; HW 0x001, A; HW 0x000, OP` of a command word (R98). -/
def issueWord (cw : CmdWord) : List HostOp :=
  [.write 0x003#9 (cwF cw), .write 0x002#9 (cwB cw), .write 0x001#9 (cwA cw), .write 0x000#9 (cwOp cw)]

/-- `ISSUE cmd` (R98). -/
def issueCmd (i : Instr) : List HostOp := issueWord (encode i)

/-- `STAGE i, v` is `HW 0x100 + i, v` (R98). -/
def stage (i v : Byte) : HostOp := .write (1#1 ++ i) v

/-- `ISSUE cmd; WAITIDLE`, one blocking call of the source (R98). -/
def call (i : Instr) : List HostOp := issueCmd i ++ [.waitIdle]

/-- The block, the device on its bus and the host's program. -/
structure Bench where
  block : State
  dev : RefDev
  program : List HostOp
deriving DecidableEq, Repr

/-- The block makes one move. -/
def Bench.move (m : Move) (dev : RefDev) (program : List HostOp) (b : Bench) : Host.Outcome Bench Fault Refusal :=
  match step (withMoves [m] b.block) with
  | .next s => .next ⟨s, dev, program⟩
  | .fault r => .fault r
  | .refused r => .refused r

/-- The host's next operation (R98). -/
def Bench.hostStep (b : Bench) : Host.Outcome Bench Fault Refusal :=
  match b.program with
  | [] => .next b
  | .read h :: rest => b.move (.hostRead h) b.dev rest
  | .write h v :: rest => b.move (.hostWrite h v) b.dev rest
  | .waitIdle :: rest => b.move (.hostRead 0x005#9) b.dev (if b.block.busy then .waitIdle :: rest else rest)

/-- One step of the bench: BLOCK before ENV before HOST. DESIGN CHOICE (log 15): one of the interleavings of R100. -/
def Bench.step (b : Bench) : Host.Outcome Bench Fault Refusal :=
  match b.block.sch, b.block.pend with
  | .run _ _ _, none => b.move .block b.dev b.program
  | .run _ _ _, some q => b.move (.env (b.dev.respond q).1) (b.dev.respond q).2 b.program
  | .idle, _ => b.hostStep
  | .fault, _ => b.hostStep

/-- `k` steps of the bench. -/
def Bench.run : Nat → Bench → Host.Outcome Bench Fault Refusal
  | 0, b => .next b
  | k + 1, b =>
    match b.step with
    | .next b' => Bench.run k b'
    | .fault r => .fault r
    | .refused r => .refused r

end Sys2Proof.Machine
end

