-- ==== Sys2Proof/Safety.lean ====
section
/-! DEFINITION. What claims call a good state and a safe step: the invariant that rules out the states no run reaches (10_state.md R28, R40 to R43; 40_bus_primitives.md R118; 41_eeprom_ops.md R130, R139). -/

namespace Sys2Proof.Machine

/-- The step table of a command (R117, R139). -/
def tableOf (c : Instr) : State → Label → Byte → Option Action :=
  match c with
  | .pStatus => tablePStatus
  | .pStart => tablePStart
  | .pStop => tablePStop
  | .pTxaddr sla dir => tablePTxaddr sla dir
  | .pTxbyte data => tablePTxbyte data
  | .pRxbyte ack => tablePRxbyte ack
  | .pInit bitrate presc => tablePInit bitrate presc
  | .eWrbyte maddr data => tableEWrbyte maddr data
  | .eRdbyte maddr => tableERdbyte maddr
  | .eWrpage maddr => tableEWrpage maddr
  | .eRdseq maddr n => tableERdseq maddr n
  | .eWaitrdy => tableEWaitrdy

/-- SLA+W was answered (R39). -/
def Phase.transmits : Phase → Bool
  | .idle => false
  | .addr => false
  | .mt => true
  | .mtNak => true
  | .mr => false
  | .mrNak => false

/-- SLA+R was answered (R39). -/
def Phase.receives : Phase → Bool
  | .idle => false
  | .addr => false
  | .mt => false
  | .mtNak => false
  | .mr => true
  | .mrNak => true

/-- A primitive the bus-condition state machine admits in a bus phase (R39, R40, R89). -/
def Prim.inSequence (p : Prim) (bph : Phase) : Bool :=
  match p with
  | .start => true
  | .stop => bph != .idle
  | .txaddr _ _ => bph == .addr
  | .txbyte _ => bph.transmits
  | .rxbyte _ => bph.receives

/-- The bus phases in which a command can stand at a label, the label's action not yet completed (R40, R117, R139). -/
def labelPhase (op : Op) (l : Label) (bph : Phase) : Bool :=
  match l with
  | .s0 => legalPhase op bph
  | .b0 => bph == .idle
  | .b1 => bph == .addr
  | .b2 => bph.transmits
  | .b3 => bph.transmits
  | .b4 => if op = .eRdbyte ∨ op = .eRdseq then bph == .addr else bph.transmits
  | .b5 => bph.receives
  | .b6 => bph.receives
  | .b7 => bph.receives
  | .w0 => bph == .idle || bph == .mtNak
  | .w1 => bph == .addr
  | .w2 => bph.transmits
  | .w3 => bph == .mt
  | .fin =>
    match op with
    | .pStatus => true
    | .pStart => bph == .addr
    | .pTxaddr => bph.transmits || bph.receives
    | .pTxbyte => bph.transmits
    | .pRxbyte => bph.receives
    | _ => bph == .idle

/-- The loop index where a step table reads it: below 8 in E.WRPAGE's B3, below n - 1 in E.RDSEQ's B5 (R136, R137). -/
def indexInRange (c : Instr) (l : Label) (i : Byte) : Bool :=
  match c, l with
  | .eWrpage _, .b3 => decide (i.toNat < Config.page)
  | .eRdseq _ n, .b5 => decide (i.toNat + 1 < n.toNat)
  | _, _ => true

/-- The operation in flight is the one the label issues, TWCR and TWSR.CODE as its issue left them (R102, R103 to
R107). -/
def inFlight (c : Instr) (l : Label) (i : Byte) (s : State) : Prop :=
  match s.pend with
  | none => True
  | some q =>
    match tableOf c s l i with
    | some (.issue p _) =>
      q = p.busOp s.bph ∧ s.twcr = twcrIssued q ∧ s.twsrCode = Status.noInfo.code s.params.codes ∧
        twdrIssued q s.twdr = s.twdr
    | _ => False

/-- The status code where a step table reads it or a command ends: the answer of the poll's address byte at W2, and
NO_INFO at an E command's END (R130, R133). -/
def statusAt (op : Op) (l : Label) (s : State) : Prop :=
  match l with
  | .w2 => s.twsrCode = (if s.bph = .mt then Status.slaWAck else Status.slaWNack).code s.params.codes
  | .fin => op.isE = true → s.twsrCode = Status.noInfo.code s.params.codes
  | _ => True

/-- SCH = S_RUN(op, l, i) with LC holding the command `c` of row `op`. -/
structure Running (s : State) (op : Op) (l : Label) (i : Byte) (c : Instr) : Prop where
  latched : decode s.lc = .command c
  opOf : c.op = op
  accepted : lengthZero c = false
  hasLabel : (tableOf c s l i).isSome = true
  phase : labelPhase op l s.bph = true
  index : indexInRange c l i = true
  flight : inFlight c l i s
  status : statusAt op l s

/-- What SCH admits of the rest of the state (R41 to R43). -/
def schOk (s : State) : Prop :=
  match s.sch with
  | .idle => s.pend = none
  | .fault => s.pend = none
  | .run op l i => ∃ c, Running s op l i c

/-- The invariant of every reachable state. -/
structure Inv (s : State) : Prop where
  /-- BUF keeps its canonical form. -/
  bufWf : Memory.wf s.buf = true
  /-- No response is left over between steps (log 3). -/
  answered : s.answer = none
  /-- TWCR.WC, TWCR bit 1 and TWCR.IE are hardwired 0 (R32, U13). -/
  hardwired : s.twcr &&& 0x0B#8 = 0#8
  /-- The values of STATUS_CODE are distinct (D8). -/
  codes : Distinct s.params.codes
  /-- SCH, PEND, LC, BPH and TWSR.CODE agree. -/
  sch : schOk s

/-- A step that the model does not stop. -/
def Safe (s : State) : Prop := ∃ t, step s = .next t

end Sys2Proof.Machine
end

