-- ==== Sys2Proof/Certificates/Slice0/Obligations.lean ====
section
/-! DEFINITION. The statements for the provers. Each docstring names the rules of spec/ it formalises. -/

open Sys2Proof Sys2Proof.Machine

namespace Sys2Proof.Claim

/-- Command `c` stands at label `l` with nothing in flight: its BLOCK step is due (R100). -/
def Ready (c : Instr) (l : Label) (i : Byte) (s : State) : Prop :=
  s.sch = .run c.op l i ∧ s.pend = none ∧ s.answer = none

/-- Command `c` stands at label `l` with operation `q` in flight and ENV gives response `r`: its ENV step is due
(R100). -/
def Given (c : Instr) (l : Label) (i : Byte) (q : BusOp) (r : Response) (s : State) : Prop :=
  s.sch = .run c.op l i ∧ s.pend = some q ∧ s.answer = some r

/-- Command `c` stands at label `l` with operation `q` in flight and no response yet (R42). -/
def Waiting (c : Instr) (l : Label) (i : Byte) (q : BusOp) (s : State) : Prop :=
  s.sch = .run c.op l i ∧ s.pend = some q ∧ s.answer = none

/-- The launch of `c` (R84, R89): accepted in the legal phases, rejected with SEQUENCE in the others. -/
def Launches (c : Instr) (l : Label) (legal : Phase → Prop) : Prop :=
  ∀ s : State, s.sch = .idle →
    (legal s.bph → exec c s = .next { s with errcode := .none, lc := s.cmdWord, sch := .run c.op l 0#8 }) ∧
    (¬ legal s.bph → exec c s = .next { s with errcode := .sequence })

/-- An ENV fault at label `l` (R167), and the wait while ENV has not answered (R42). -/
def FaultsAndWaits (c : Instr) (l : Label) : Prop :=
  ∀ (s : State) (i : Byte) (q : BusOp),
    (q ≠ .stop → ∀ (r : Response) (code : BitVec 5),
      (r = .arbLost ∧ code = s.params.codes.arbLost ∨ r = .busError ∧ code = s.params.codes.busError) →
      Given c l i q r s →
      exec c s = .next { s with
        twsrCode := code, twcr := s.twcr ||| 0x80#8, pend := none, answer := none, sch := .fault,
        trace := s.trace ++ [.fault (code ++ 0#3)] }) ∧
    (Waiting c l i q s → exec c s = .next s)

/-- END of `c` (R100): SCH <- S_IDLE. -/
def Ends (c : Instr) : Prop :=
  ∀ (s : State) (i : Byte), Ready c .fin i s → exec c s = .next { s with sch := .idle }

/-- A row of a step table (R139): the primitive issued at `l`, and the completion action: `nak(r)` or not, where a
received byte goes, the next label and index. -/
def IssueRow (c : Instr) (l : Label) (p : State → Byte → Prim) (nak : Bool) (dest : Byte → Dest)
    (next : Byte → Label × Byte) : Prop :=
  (∀ (s : State) (i : Byte), Ready c l i s → exec c s = .next (issue (p s i) s)) ∧
  (∀ (s : State) (i : Byte) (q : BusOp) (r : Response) (d : Done), Given c l i q r s →
    answered q r s.bph s.twdr = .completes d →
    exec c s = .next (goto c.op (next i).1 (next i).2 (storeByte (dest i) r (recordNak nak r (completed q d s))))) ∧
  FaultsAndWaits c l

/-- W0 to W3, then END (R133, R139). -/
def PollRows (c : Instr) : Prop :=
  IssueRow c .w0 (fun _ _ => .start) false (fun _ => .drop) (fun i => (.w1, i)) ∧
  IssueRow c .w1 (fun s _ => .txaddr s.params.eeSla7 .w) false (fun _ => .drop) (fun i => (.w2, i)) ∧
  (∀ (s : State) (i : Byte), Ready c .w2 i s →
    (s.status = s.params.codes.slaWAck ++ 0#3 → exec c s = .next { s with sch := .run c.op .w3 i }) ∧
    (s.status ≠ s.params.codes.slaWAck ++ 0#3 → exec c s = .next { s with sch := .run c.op .w0 i })) ∧
  IssueRow c .w3 (fun _ _ => .stop) false (fun _ => .drop) (fun i => (.fin, i)) ∧
  Ends c

/-- The answer to a written byte. -/
def ackOf (a : Bool) : Response := if a then .ack else .nack

/-- One bus operation of a run: the BLOCK step that issues it and ENV's answer. -/
def opMoves (r : Response) : List Move := [.block, .env r]

/-- The poll with `k` busy answers before the acknowledge (R133): at every attempt start, address and check; then the
stop; then END. -/
def pollMoves : Nat → List Move
  | 0 => opMoves .ok ++ opMoves .ack ++ [.block] ++ opMoves .ok ++ [.block]
  | k + 1 => opMoves .ok ++ opMoves .nack ++ [.block] ++ pollMoves k

/-- The bus events of that poll; `rep` says whether its first start is a repeated start. -/
def pollTrace (slaW : Byte) : Bool → Nat → List BusEvent
  | rep, 0 => [if rep then .repStart else .start, .write slaW true, .stop]
  | rep, k + 1 => [if rep then .repStart else .start, .write slaW false] ++ pollTrace slaW true k

/-- A state in which an E command can be launched, of a block whose status codes are distinct (R35, D8): S_IDLE with
the bus idle. -/
def AtRest (s : State) : Prop :=
  s.sch = .idle ∧ s.bph = .idle ∧ s.pend = none ∧ s.answer = none ∧ Distinct s.params.codes

/-- The bus state after an E command (R130), and what no E command writes: the command registers, SSTAT.OVR, the clock,
the parameters. -/
def EndsClean (s t : State) (cw : CmdWord) : Prop :=
  t.sch = .idle ∧ t.bph = .idle ∧ t.pend = none ∧ t.answer = none ∧ t.moves = [] ∧
  t.twcr = 0x04#8 ∧ t.twsrCode = s.params.codes.noInfo ∧ t.lc = cw ∧ t.errcode = .none ∧
  t.cmdOp = cwOp cw ∧ t.cmdA = s.cmdA ∧ t.cmdB = s.cmdB ∧ t.cmdF = s.cmdF ∧ t.ovr = s.ovr ∧
  t.twbr = s.twbr ∧ t.twsrPresc = s.twsrPresc ∧ t.params = s.params ∧ t.reads = s.reads

/-- The staging registers hold the operand bytes of `c`, and the moves launch it and then are `ms`. -/
def Staged (c : Instr) (ms : List Move) (s : State) : Prop :=
  s.cmdA = cwA (encode c) ∧ s.cmdB = cwB (encode c) ∧ s.cmdF = cwF (encode c) ∧
  s.moves = .hostWrite 0x000#9 (cwOp (encode c)) :: ms

/-- The block owns the bus after a trace: a start came since the last stop (R39). -/
def owned : List BusEvent → Bool → Bool
  | [], o => o
  | .start :: rest, _ => owned rest true
  | .repStart :: rest, _ => owned rest true
  | .stop :: rest, _ => owned rest false
  | .write _ _ :: rest, o => owned rest o
  | .read _ _ :: rest, o => owned rest o
  | .fault _ :: rest, o => owned rest o

/-- Every transaction of a trace is bracketed: `S` only from an idle bus, every other event but a fault only inside a
transaction. -/
def bracketed : List BusEvent → Bool → Bool
  | [], _ => true
  | .start :: rest, o => !o && bracketed rest true
  | .repStart :: rest, o => o && bracketed rest true
  | .stop :: rest, o => o && bracketed rest false
  | .write _ _ :: rest, o => o && bracketed rest o
  | .read _ _ :: rest, o => o && bracketed rest o
  | .fault _ :: rest, o => bracketed rest o

/-- The trace is bracketed and BPH says whether the bus is owned after it. -/
def BusBracketed (s : State) : Prop :=
  bracketed s.trace false = true ∧ owned s.trace false = (s.bph != .idle)

/-- What no command but its own kind writes: the command registers, SSTAT.OVR, the parameters and the model's own
lists; LC and ERRCODE but at a launch. -/
def CommonFrame (s t : State) : Prop :=
  t.cmdOp = s.cmdOp ∧ t.cmdA = s.cmdA ∧ t.cmdB = s.cmdB ∧ t.cmdF = s.cmdF ∧ t.ovr = s.ovr ∧
  t.params = s.params ∧ t.moves = s.moves ∧ t.reads = s.reads ∧
  (s.sch ≠ .idle → t.lc = s.lc ∧ t.errcode = s.errcode)

/-- Every byte of BUF reads as before. -/
def BufUnchanged (s t : State) : Prop := ∀ a : Nat, memRead t.buf a = memRead s.buf a

/-- The device on the bench, at rest, answers the address the block uses. -/
def DeviceReady (b : Bench) : Prop :=
  b.dev.sla = b.block.params.eeSla7 ∧ b.dev.busyn = 0 ∧ b.dev.pw = [] ∧ Memory.wf b.dev.mem = true

end Sys2Proof.Claim

open Sys2Proof.Claim

/-! ### Reset and the host interface -/

/-- R45: the reset value of every register as the host reads it, and of the hidden state. (BUF, which R45 leaves
unspecified, is the subject of ResetMoveRestoresEveryRegister.) State.reset has STATUS_CODE at R35's defaults (log 6),
so that NO_INFO reads 0xF8 in TWSR. -/
def Obligations.ResetStateHoldsTheSpecValues : Prop :=
  (∀ h : HAddr, h.toNat < 0x100 →
    hostValue h State.reset = if h.toNat = 0x007 then 0xFF#8 else if h.toNat = 0x008 then 0xF8#8 else 0x00#8) ∧
  State.reset.lc = 0x00000000#32 ∧ State.reset.bph = .idle ∧ State.reset.pend = none ∧ State.reset.sch = .idle

/-- R45, R180, U1: RST from any state, in the middle of a command or in S_FAULT, leaves every piece of state at its
reset value, BUF at any bytes, and adds no bus event; an operation in flight is abandoned. The model's choice: a byte of
BUF that the move's list does not reach reads 0x00 (log 4); the parameters, the moves to come and the host's reads stay
(log 11); TWSR.CODE is the NO_INFO of the block's own table (log 6). -/
def Obligations.ResetMoveRestoresEveryRegister : Prop :=
  ∀ (s : State) (bytes : List Byte) (rest : List Move), s.moves = .rst bytes :: rest →
    ∃ t, step s = .next t ∧ (∀ i : Byte, t.bufAt i = bytes.getD i.toNat 0x00#8) ∧ Memory.wf t.buf = true ∧
      { t with buf := [], moves := [], trace := [], reads := [] } = State.resetWith s.params ∧
      t.twsrCode = s.params.codes.noInfo ∧
      t.trace = s.trace ∧ t.moves = rest ∧ t.params = s.params ∧ t.reads = s.reads

/-- R51, R52, R54: what a host read of each address returns, busy or not, and that it changes nothing of the block. -/
def Obligations.HostReadReturnsTheRegister : Prop :=
  ∀ (s : State) (h : HAddr) (rest : List Move), s.moves = .hostRead h :: rest →
    ∃ v : Byte, step s = .next { s with moves := rest, reads := s.reads ++ [(h, v)] } ∧
      (h = 0x000#9 → v = s.cmdOp) ∧ (h = 0x001#9 → v = s.cmdA) ∧ (h = 0x002#9 → v = s.cmdB) ∧
      (h = 0x003#9 → v = s.cmdF) ∧ (h = 0x004#9 → v = s.result) ∧ (h = 0x005#9 → v = s.sstat) ∧
      (h = 0x006#9 → v = s.twcr) ∧ (h = 0x007#9 → v = s.twdr) ∧ (h = 0x008#9 → v = s.twsrCode ++ s.twsrPresc) ∧
      (h = 0x009#9 → v = s.twbr) ∧ (0x00A ≤ h.toNat → h.toNat ≤ 0x0FF → v = 0x00#8) ∧
      (∀ i : Byte, h.toNat = 0x100 + i.toNat → v = memRead s.buf i.toNat)

/-- R53, R54: what a host write does at each address but the launch at CMD_OP (R84, LaunchChecksInOrder). -/
def Obligations.HostWriteActsByAddress : Prop :=
  ∀ (s : State) (h : HAddr) (v : Byte) (rest : List Move), s.moves = .hostWrite h v :: rest →
    (h = 0x000#9 → s.busy = true → step s = .next { s with moves := rest, ovr := true }) ∧
    (h = 0x001#9 → step s = .next { s with moves := rest, cmdA := v }) ∧
    (h = 0x002#9 → step s = .next { s with moves := rest, cmdB := v }) ∧
    (h = 0x003#9 → step s = .next { s with moves := rest, cmdF := v }) ∧
    (h = 0x005#9 → step s = .next { s with
      moves := rest, nak := s.nak && !v.getLsbD 1, ovr := s.ovr && !v.getLsbD 2 }) ∧
    (h = 0x004#9 ∨ 0x006 ≤ h.toNat ∧ h.toNat ≤ 0x0FF → step s = .next { s with moves := rest }) ∧
    (∀ i : Byte, h.toNat = 0x100 + i.toNat →
      (s.busy = true → step s = .next { s with moves := rest, ovr := true }) ∧
      (s.busy = false → Memory.wf s.buf = true → ∃ m, step s = .next { s with moves := rest, buf := m } ∧
        Memory.wf m = true ∧ memRead m i.toNat = v ∧ ∀ a, a ≠ i.toNat → memRead m a = memRead s.buf a))

/-- R27, R28, R31: the fields of SSTAT as the host reads it: BUSY, NAK, OVR, FLT, ERRCODE, and bit 7 zero. -/
def Obligations.SstatBitsAreItsFields : Prop :=
  ∀ s : State,
    (s.sstat.getLsbD 0 = true ↔ (∃ op l i, s.sch = .run op l i) ∨ s.sch = .fault) ∧
    s.sstat.getLsbD 1 = s.nak ∧ s.sstat.getLsbD 2 = s.ovr ∧ (s.sstat.getLsbD 3 = true ↔ s.sch = .fault) ∧
    ((s.sstat.extractLsb' 4 3).toNat = match s.errcode with
      | .none => 0
      | .illegalOp => 1
      | .reservedField => 2
      | .lenZero => 3
      | .sequence => 4) ∧
    s.sstat.getLsbD 7 = false

/-! ### Encoding -/

/-- R85: a word decodes to ILLEGAL_OP exactly when its OP is none of the twelve. -/
def Obligations.IllegalOpExactlyOutsideTheMap : Prop :=
  ∀ cw : CmdWord, decode cw = .illegalOp ↔
    ¬ ((0x01 ≤ (cwOp cw).toNat ∧ (cwOp cw).toNat ≤ 0x07) ∨ (0x10 ≤ (cwOp cw).toNat ∧ (cwOp cw).toNat ≤ 0x14))

/-- R86: a word decodes to RESERVED_FIELD exactly when its OP is in the map and a must-be-zero bit of its format is 1. -/
def Obligations.ReservedFieldExactlyMustBeZero : Prop :=
  ∀ cw : CmdWord, decode cw = .reservedField ↔
    (cwOp cw ∈ [0x01#8, 0x02#8, 0x03#8, 0x14#8] ∧ ¬ (cwA cw = 0#8 ∧ cwB cw = 0#8 ∧ cwF cw = 0#8)) ∨
    (cwOp cw ∈ [0x05#8, 0x11#8, 0x12#8] ∧ ¬ (cwB cw = 0#8 ∧ cwF cw = 0#8)) ∨
    (cwOp cw = 0x04#8 ∧ ¬ (cwB cw = 0#8 ∧ (cwF cw).extractLsb' 1 7 = 0#7)) ∨
    (cwOp cw = 0x06#8 ∧ ¬ (cwA cw = 0#8 ∧ cwB cw = 0#8 ∧ (cwF cw).extractLsb' 1 7 = 0#7)) ∨
    (cwOp cw ∈ [0x10#8, 0x13#8] ∧ ¬ (cwF cw = 0#8)) ∨
    (cwOp cw = 0x07#8 ∧ ¬ ((cwB cw).extractLsb' 3 5 = 0#5 ∧ cwF cw = 0#8))

/-- R87: bit 16 of a word changes nothing in the decoding of P.TXADDR, and it is the only don't-care bit: two words
that decode to one command are equal, or are P.TXADDR words equal but for bit 16. -/
def Obligations.OnlyDontCareBitIsTxaddrAZero : Prop :=
  (∀ cw : CmdWord, cwOp cw = 0x04#8 → decode (cw ^^^ 0x00010000#32) = decode cw) ∧
  (∀ (cw cw' : CmdWord) (c : Instr), decode cw = .command c → decode cw' = .command c →
    cw = cw' ∨ (cwOp cw = 0x04#8 ∧ cw' = cw ^^^ 0x00010000#32))

/-- R82, R95, R96: decoding the word of any command gives the command back, every operand at every value. -/
def Obligations.DecodeOfEncodeIsIdentity : Prop :=
  ∀ c : Instr, decode (encode c) = .command c

/-- R94, R96: a word that decodes is the assembled word of its command, but for P.TXADDR's A[0], assembled as 0. -/
def Obligations.EncodeOfDecodeClearsOnlyTheDontCare : Prop :=
  ∀ (cw : CmdWord) (c : Instr), decode cw = .command c →
    encode c = if cwOp cw = 0x04#8 then cw &&& 0xFFFEFFFF#32 else cw

/-- R82, R96: words written out from the spec's encodings, one per command and both values of each one-bit operand. -/
def Obligations.DecodesWrittenOutWords : Prop :=
  decode 0x01000000#32 = .command .pStatus ∧ decode 0x02000000#32 = .command .pStart ∧
  decode 0x03000000#32 = .command .pStop ∧ decode 0x04A00000#32 = .command (.pTxaddr 0x50#7 .w) ∧
  decode 0x04A10001#32 = .command (.pTxaddr 0x50#7 .r) ∧ decode 0x05100000#32 = .command (.pTxbyte 0x10#8) ∧
  decode 0x06000001#32 = .command (.pRxbyte true) ∧ decode 0x06000000#32 = .command (.pRxbyte false) ∧
  decode 0x07480500#32 = .command (.pInit 0x48#8 5#3) ∧ decode 0x10104500#32 = .command (.eWrbyte 0x10#8 0x45#8) ∧
  decode 0x11100000#32 = .command (.eRdbyte 0x10#8) ∧ decode 0x12F90000#32 = .command (.eWrpage 0xF9#8) ∧
  decode 0x13100700#32 = .command (.eRdseq 0x10#8 0x07#8) ∧ decode 0x14000000#32 = .command .eWaitrdy

/-- R92 to R96, R99: the assembler reads the line that the disassembler prints for a well-formed command as that
command (the separators and the number formats printed are the model's choice, log 18). -/
def Obligations.AssemblerReadsTheDisassembly : Prop :=
  ∀ c : Instr, c.wellFormed = true → Asm.parseLine (String.ofList (Asm.printInstr c)) = some c

/-! ### Launch -/

/-- R84: a write of CMD_OP, busy or not, check by check in the order written. -/
def Obligations.LaunchChecksInOrder : Prop :=
  ∀ (s : State) (v : Byte) (rest : List Move), s.moves = .hostWrite 0x000#9 v :: rest →
    (s.busy = true → step s = .next { s with moves := rest, ovr := true }) ∧
    (s.busy = false →
      let u : State := { s with moves := rest, cmdOp := v }
      let cw : CmdWord := cmdWordOf v s.cmdA s.cmdB s.cmdF
      ((∀ r ∈ opcodeMap, cwOp r.pattern ≠ cwOp cw) → step s = .next { u with errcode := .illegalOp }) ∧
      (∀ r ∈ opcodeMap, cwOp r.pattern = cwOp cw →
        (cw &&& r.mask ≠ r.pattern → step s = .next { u with errcode := .reservedField }) ∧
        (cw &&& r.mask = r.pattern →
          (r.op = .eRdseq ∧ cwB cw = 0#8 → step s = .next { u with errcode := .lenZero }) ∧
          (¬ (r.op = .eRdseq ∧ cwB cw = 0#8) →
            (legalPhase r.op s.bph = false → step s = .next { u with errcode := .sequence }) ∧
            (legalPhase r.op s.bph = true →
              step s = .next { u with errcode := .none, lc := cw, sch := .run r.op (firstLabel r.op) 0#8 })))))

/-- R162: a rejected launch, whatever the failing check, writes ERRCODE, keeps the byte written in CMD_OP, and changes
nothing else. A launch is accepted or rejected, never stopped. -/
def Obligations.RejectedLaunchChangesOnlyTheCode : Prop :=
  ∀ (s : State) (v : Byte) (rest : List Move), s.moves = .hostWrite 0x000#9 v :: rest → s.busy = false →
    ∃ t, step s = .next t ∧
      ((t.errcode = .none ∧ t.busy = true) ∨
       (t.errcode ≠ .none ∧ t = { s with moves := rest, cmdOp := v, errcode := t.errcode }))

/-- R88, R89: LEN_ZERO rejects E.RDSEQ with length 0 in every phase, and the legal phases of every command are those of
R89; in the others the launch is rejected with SEQUENCE. -/
def Obligations.LaunchLegalInTheListedPhases : Prop :=
  (∀ (s : State) (a : Byte), s.sch = .idle → exec (.eRdseq a 0#8) s = .next { s with errcode := .lenZero }) ∧
  Launches .pStatus .s0 (fun _ => True) ∧ Launches .pStart .s0 (fun _ => True) ∧
  Launches .pStop .s0 (fun b => b ≠ .idle) ∧
  (∀ sla dir, Launches (.pTxaddr sla dir) .s0 (fun b => b = .addr)) ∧
  (∀ d, Launches (.pTxbyte d) .s0 (fun b => b = .mt ∨ b = .mtNak)) ∧
  (∀ k, Launches (.pRxbyte k) .s0 (fun b => b = .mr ∨ b = .mrNak)) ∧
  (∀ r p, Launches (.pInit r p) .s0 (fun b => b = .idle)) ∧
  (∀ a d, Launches (.eWrbyte a d) .b0 (fun b => b = .idle)) ∧
  (∀ a, Launches (.eRdbyte a) .b0 (fun b => b = .idle)) ∧
  (∀ a, Launches (.eWrpage a) .b0 (fun b => b = .idle)) ∧
  (∀ a n, n ≠ 0#8 → Launches (.eRdseq a n) .b0 (fun b => b = .idle)) ∧
  Launches .eWaitrdy .w0 (fun b => b = .idle)

/-- R84, R100: a step runs the decoded command. A launching write runs exec of the command the staged word decodes to;
a BLOCK move and an ENV move run exec of the command LC decodes to, the ENV move with its response given. -/
def Obligations.StepRunsTheDecodedCommand : Prop :=
  ∀ (s : State) (c : Instr) (rest : List Move),
    (∀ v : Byte, s.moves = .hostWrite 0x000#9 v :: rest → s.sch = .idle →
      decode (cmdWordOf v s.cmdA s.cmdB s.cmdF) = .command c →
      step s = exec c { s with moves := rest, cmdOp := v }) ∧
    (∀ op l i, s.sch = .run op l i → decode s.lc = .command c →
      (s.moves = .block :: rest → step s = exec c { s with moves := rest }) ∧
      (∀ r : Response, s.moves = .env r :: rest → s.pend ≠ none →
        step s = exec c { s with moves := rest, answer := some r }))

/-! ### P commands -/

/-- R100, R108, R110: P.STATUS puts TWSR & 0xF8 in RESULT, then ends; it uses no bus operation. The model's reading
(log 8): S0 and END are two BLOCK steps, where R117 counts one. -/
def Obligations.PStatusReadsTheMaskedStatus : Prop :=
  (∀ (s : State) (i : Byte), Ready .pStatus .s0 i s →
    exec .pStatus s = .next { s with
      result := (s.twsrCode ++ s.twsrPresc : BitVec 8) &&& 0xF8#8, sch := .run .pStatus .fin i }) ∧
  Ends .pStatus

/-- R103, R111: P.START issues a start, a repeated start when BPH is not IDLE, and completes to ADDR. -/
def Obligations.PStartSendsAStart : Prop :=
  (∀ (s : State) (i : Byte), Ready .pStart .s0 i s →
    exec .pStart s = .next { s with
      pend := some (.start (decide (s.bph ≠ .idle))), twcr := 0x24#8, twsrCode := s.params.codes.noInfo }) ∧
  (∀ (s : State) (i : Byte) (rep : Bool), Given .pStart .s0 i (.start rep) .ok s →
    exec .pStart s = .next { s with
      twcr := 0xA4#8, twsrCode := if rep then s.params.codes.repStart else s.params.codes.start, bph := .addr,
      pend := none, answer := none, sch := .run .pStart .fin i, trace := s.trace ++ [if rep then .repStart else .start] }) ∧
  FaultsAndWaits .pStart .s0 ∧ Ends .pStart

/-- R104, R112: P.STOP issues a stop and completes to IDLE with NO_INFO, TWCR.INT staying 0. -/
def Obligations.PStopSendsAStop : Prop :=
  (∀ (s : State) (i : Byte), Ready .pStop .s0 i s →
    exec .pStop s = .next { s with pend := some .stop, twcr := 0x14#8, twsrCode := s.params.codes.noInfo }) ∧
  (∀ (s : State) (i : Byte), Given .pStop .s0 i .stop .ok s →
    exec .pStop s = .next { s with
      twcr := 0x04#8, twsrCode := s.params.codes.noInfo, bph := .idle, pend := none, answer := none,
      sch := .run .pStop .fin i, trace := s.trace ++ [.stop] }) ∧
  Ends .pStop

/-- R105, R113: P.TXADDR transmits the address byte with the direction in bit 0; the acknowledge picks the status and
the phase, and SSTAT.NAK is not written. -/
def Obligations.PTxaddrSendsTheAddressByte : Prop :=
  ∀ (sla : BitVec 7) (dir : Dir),
    let b : Byte := sla ++ (match dir with | .w => 0#1 | .r => 1#1)
    (∀ (s : State) (i : Byte), Ready (.pTxaddr sla dir) .s0 i s →
      exec (.pTxaddr sla dir) s = .next { s with
        pend := some (.write b (.addr dir)), twdr := b, twcr := 0x04#8, twsrCode := s.params.codes.noInfo }) ∧
    (∀ (s : State) (i : Byte) (a : Bool), Given (.pTxaddr sla dir) .s0 i (.write b (.addr dir)) (ackOf a) s →
      exec (.pTxaddr sla dir) s = .next { s with
        twcr := 0x84#8
        twsrCode := (match dir, a with
          | .w, true => s.params.codes.slaWAck
          | .w, false => s.params.codes.slaWNack
          | .r, true => s.params.codes.slaRAck
          | .r, false => s.params.codes.slaRNack)
        bph := (match dir, a with
          | .w, true => .mt
          | .w, false => .mtNak
          | .r, true => .mr
          | .r, false => .mrNak)
        pend := none, answer := none, sch := .run .pTxaddr .fin i, trace := s.trace ++ [.write b a] }) ∧
    FaultsAndWaits (.pTxaddr sla dir) .s0 ∧ Ends (.pTxaddr sla dir)

/-- R106, R114: P.TXBYTE transmits a data byte; BPH stays, and SSTAT.NAK is not written. -/
def Obligations.PTxbyteSendsADataByte : Prop :=
  ∀ d : Byte,
    (∀ (s : State) (i : Byte), Ready (.pTxbyte d) .s0 i s →
      exec (.pTxbyte d) s = .next { s with
        pend := some (.write d .data), twdr := d, twcr := 0x04#8, twsrCode := s.params.codes.noInfo }) ∧
    (∀ (s : State) (i : Byte) (a : Bool), Given (.pTxbyte d) .s0 i (.write d .data) (ackOf a) s →
      exec (.pTxbyte d) s = .next { s with
        twcr := 0x84#8, twsrCode := if a then s.params.codes.dataTxAck else s.params.codes.dataTxNack,
        pend := none, answer := none, sch := .run .pTxbyte .fin i, trace := s.trace ++ [.write d a] }) ∧
    FaultsAndWaits (.pTxbyte d) .s0 ∧ Ends (.pTxbyte d)

/-- R107, R115: P.RXBYTE receives a byte, any byte, into TWDR and RESULT, with the acknowledge it was asked for. -/
def Obligations.PRxbyteReceivesAByte : Prop :=
  ∀ k : Bool,
    (∀ (s : State) (i : Byte), Ready (.pRxbyte k) .s0 i s →
      exec (.pRxbyte k) s = .next { s with
        pend := some (.read k), twcr := if k then 0x44#8 else 0x04#8, twsrCode := s.params.codes.noInfo }) ∧
    (∀ (s : State) (i v : Byte), Given (.pRxbyte k) .s0 i (.read k) (.data v) s →
      exec (.pRxbyte k) s = .next { s with
        twdr := v, result := v, twcr := if k then 0xC4#8 else 0x84#8,
        twsrCode := if k then s.params.codes.dataRxAck else s.params.codes.dataRxNack, pend := none, answer := none,
        sch := .run .pRxbyte .fin i, trace := s.trace ++ [.read v k] }) ∧
    FaultsAndWaits (.pRxbyte k) .s0 ∧ Ends (.pRxbyte k)

/-- R100, R109, R116: P.INIT writes TWBR and TWSR.PRESC and nothing else, then ends. The model's reading (log 8): S0 and
END are two BLOCK steps, where R117 counts one. -/
def Obligations.PInitWritesTheClock : Prop :=
  ∀ (r : Byte) (p : BitVec 3),
    (∀ (s : State) (i : Byte), Ready (.pInit r p) .s0 i s →
      exec (.pInit r p) s = .next { s with twbr := r, twsrPresc := p, sch := .run .pInit .fin i }) ∧
    Ends (.pInit r p)

/-! ### E commands, row by row -/

/-- R133, R138, R139: the rows of E.WAITRDY. -/
def Obligations.EWaitrdyFollowsItsTable : Prop := PollRows .eWaitrdy

/-- R131, R133, R134, R139: the rows of E.WRBYTE. -/
def Obligations.EWrbyteFollowsItsTable : Prop :=
  ∀ a d : Byte,
    let c : Instr := .eWrbyte a d
    IssueRow c .b0 (fun _ _ => .start) false (fun _ => .drop) (fun i => (.b1, i)) ∧
    IssueRow c .b1 (fun s _ => .txaddr s.params.eeSla7 .w) true (fun _ => .drop) (fun i => (.b2, i)) ∧
    IssueRow c .b2 (fun _ _ => .txbyte a) true (fun _ => .drop) (fun i => (.b3, i)) ∧
    IssueRow c .b3 (fun _ _ => .txbyte d) true (fun _ => .drop) (fun i => (.b4, i)) ∧
    IssueRow c .b4 (fun _ _ => .stop) false (fun _ => .drop) (fun i => (.w0, i)) ∧
    PollRows c

/-- R131, R135, R139: the rows of E.RDBYTE. -/
def Obligations.ERdbyteFollowsItsTable : Prop :=
  ∀ a : Byte,
    let c : Instr := .eRdbyte a
    IssueRow c .b0 (fun _ _ => .start) false (fun _ => .drop) (fun i => (.b1, i)) ∧
    IssueRow c .b1 (fun s _ => .txaddr s.params.eeSla7 .w) true (fun _ => .drop) (fun i => (.b2, i)) ∧
    IssueRow c .b2 (fun _ _ => .txbyte a) true (fun _ => .drop) (fun i => (.b3, i)) ∧
    IssueRow c .b3 (fun _ _ => .start) false (fun _ => .drop) (fun i => (.b4, i)) ∧
    IssueRow c .b4 (fun s _ => .txaddr s.params.eeSla7 .r) true (fun _ => .drop) (fun i => (.b5, i)) ∧
    IssueRow c .b5 (fun _ _ => .rxbyte false) false (fun _ => .result) (fun i => (.b6, i)) ∧
    IssueRow c .b6 (fun _ _ => .stop) false (fun _ => .drop) (fun i => (.fin, i)) ∧
    Ends c

/-- R131 to R133, R136, R139: the rows of E.WRPAGE; the address is rounded up, the data bytes are BUF[0] to BUF[7]. -/
def Obligations.EWrpageFollowsItsTable : Prop :=
  ∀ a : Byte,
    let c : Instr := .eWrpage a
    IssueRow c .b0 (fun _ _ => .start) false (fun _ => .drop) (fun i => (.b1, i)) ∧
    IssueRow c .b1 (fun s _ => .txaddr s.params.eeSla7 .w) true (fun _ => .drop) (fun i => (.b2, i)) ∧
    IssueRow c .b2 (fun _ _ => .txbyte (eff a)) true (fun _ => .drop) (fun _ => (.b3, 0#8)) ∧
    IssueRow c .b3 (fun s i => .txbyte (memRead s.buf i.toNat)) true (fun _ => .drop)
      (fun i => if i.toNat < 7 then (.b3, i + 1#8) else (.b4, i)) ∧
    IssueRow c .b4 (fun _ _ => .stop) false (fun _ => .drop) (fun i => (.w0, i)) ∧
    PollRows c

/-- R131, R137, R139: the rows of E.RDSEQ. -/
def Obligations.ERdseqFollowsItsTable : Prop :=
  ∀ a n : Byte,
    let c : Instr := .eRdseq a n
    IssueRow c .b0 (fun _ _ => .start) false (fun _ => .drop) (fun i => (.b1, i)) ∧
    IssueRow c .b1 (fun s _ => .txaddr s.params.eeSla7 .w) true (fun _ => .drop) (fun i => (.b2, i)) ∧
    IssueRow c .b2 (fun _ _ => .txbyte a) true (fun _ => .drop) (fun i => (.b3, i)) ∧
    IssueRow c .b3 (fun _ _ => .start) false (fun _ => .drop) (fun i => (.b4, i)) ∧
    IssueRow c .b4 (fun s _ => .txaddr s.params.eeSla7 .r) true (fun _ => .drop)
      (fun _ => (if 2 ≤ n.toNat then .b5 else .b6, 0#8)) ∧
    IssueRow c .b5 (fun _ _ => .rxbyte true) false (fun i => .buf i)
      (fun i => (if i.toNat + 1 < n.toNat - 1 then .b5 else .b6, i + 1#8)) ∧
    IssueRow c .b6 (fun _ _ => .rxbyte false) false (fun _ => .buf (n - 1#8)) (fun i => (.b7, i)) ∧
    IssueRow c .b7 (fun _ _ => .stop) false (fun _ => .drop) (fun i => (.fin, i)) ∧
    Ends c

/-- R132: eff rounds up to the next multiple of 8, modulo 256: the least multiple of 8 not below `a`, and 0x00 from
0xF9 up. -/
def Obligations.EffRoundsUpToThePage : Prop :=
  ∀ a : Byte, (eff a).toNat % 8 = 0 ∧
    (a.toNat ≤ 0xF8 → a.toNat ≤ (eff a).toNat ∧ (eff a).toNat < a.toNat + 8) ∧ (0xF9 ≤ a.toNat → eff a = 0x00#8)

/-! ### E commands, from the launch to the end -/

/-- R133, R138, R140: E.WAITRDY with `k` busy answers makes k + 1 attempts, the later ones with a repeated start, then
one stop; SSTAT.NAK, RESULT and BUF stay. -/
def Obligations.EWaitrdyMakesOneAttemptMore : Prop :=
  ∀ (k : Nat) (s : State), AtRest s → Staged .eWaitrdy (pollMoves k) s →
    ∃ t, core.run s.moves.length s = .next t ∧ EndsClean s t (encode .eWaitrdy) ∧
      t.trace = s.trace ++ pollTrace (s.params.eeSla7 ++ 0#1) false k ∧
      t.nak = s.nak ∧ t.result = s.result ∧ t.buf = s.buf ∧ t.twdr = s.params.eeSla7 ++ 0#1

/-- R134, R140: E.WRBYTE, whatever the three data-phase answers and with `k` busy answers of the poll. -/
def Obligations.EWrbyteWritesAndWaits : Prop :=
  ∀ (a d : Byte) (a1 a2 a3 : Bool) (k : Nat) (s : State), AtRest s →
    Staged (.eWrbyte a d) (opMoves .ok ++ opMoves (ackOf a1) ++ opMoves (ackOf a2) ++ opMoves (ackOf a3) ++
      opMoves .ok ++ pollMoves k) s →
    ∃ t, core.run s.moves.length s = .next t ∧ EndsClean s t (encode (.eWrbyte a d)) ∧
      t.trace = s.trace ++ [.start, .write (s.params.eeSla7 ++ 0#1) a1, .write a a2, .write d a3, .stop] ++
        pollTrace (s.params.eeSla7 ++ 0#1) false k ∧
      t.nak = (s.nak || !a1 || !a2 || !a3) ∧ t.result = s.result ∧ t.buf = s.buf

/-- R135, R140: E.RDBYTE, whatever the three acknowledges and whatever the byte received. -/
def Obligations.ERdbyteReturnsTheByteReceived : Prop :=
  ∀ (a v : Byte) (a1 a2 a3 : Bool) (s : State), AtRest s →
    Staged (.eRdbyte a) (opMoves .ok ++ opMoves (ackOf a1) ++ opMoves (ackOf a2) ++ opMoves .ok ++
      opMoves (ackOf a3) ++ opMoves (.data v) ++ opMoves .ok ++ [.block]) s →
    ∃ t, core.run s.moves.length s = .next t ∧ EndsClean s t (encode (.eRdbyte a)) ∧
      t.trace = s.trace ++ [.start, .write (s.params.eeSla7 ++ 0#1) a1, .write a a2, .repStart,
        .write (s.params.eeSla7 ++ 1#1) a3, .read v false, .stop] ∧
      t.result = v ∧ t.twdr = v ∧ t.nak = (s.nak || !a1 || !a2 || !a3) ∧ t.buf = s.buf

/-- R58, R136, R140: E.WRPAGE sends the rounded address and then BUF[0] to BUF[7] in order, whatever the ten answers,
and polls. -/
def Obligations.EWrpageSendsTheEightBytes : Prop :=
  ∀ (a : Byte) (a1 a2 : Bool) (acks : List Bool) (k : Nat) (s : State), AtRest s → acks.length = 8 →
    Staged (.eWrpage a) (opMoves .ok ++ opMoves (ackOf a1) ++ opMoves (ackOf a2) ++
      acks.flatMap (fun x => opMoves (ackOf x)) ++ opMoves .ok ++ pollMoves k) s →
    ∃ t, core.run s.moves.length s = .next t ∧ EndsClean s t (encode (.eWrpage a)) ∧
      t.trace = s.trace ++ [.start, .write (s.params.eeSla7 ++ 0#1) a1, .write (eff a) a2] ++
        (List.range 8).zipWith (fun j x => .write (memRead s.buf j) x) acks ++ [.stop] ++
        pollTrace (s.params.eeSla7 ++ 0#1) false k ∧
      t.nak = (s.nak || !a1 || !a2 || acks.any (fun x => !x)) ∧ t.result = s.result ∧ t.buf = s.buf

/-- R58, R137, R140: E.RDSEQ of length n makes n - 1 acknowledged receives and one not acknowledged, and stores the
bytes in BUF[0] to BUF[n - 1], leaving the rest. -/
def Obligations.ERdseqFillsTheBuffer : Prop :=
  ∀ (a n : Byte) (a1 a2 a3 : Bool) (vs : List Byte) (s : State), AtRest s → Memory.wf s.buf = true → n ≠ 0#8 →
    vs.length = n.toNat →
    Staged (.eRdseq a n) (opMoves .ok ++ opMoves (ackOf a1) ++ opMoves (ackOf a2) ++ opMoves .ok ++
      opMoves (ackOf a3) ++ vs.flatMap (fun v => opMoves (.data v)) ++ opMoves .ok ++ [.block]) s →
    ∃ t, core.run s.moves.length s = .next t ∧ EndsClean s t (encode (.eRdseq a n)) ∧
      t.trace = s.trace ++ [.start, .write (s.params.eeSla7 ++ 0#1) a1, .write a a2, .repStart,
        .write (s.params.eeSla7 ++ 1#1) a3] ++ vs.dropLast.map (fun v => .read v true) ++
        [.read (vs.getLastD 0#8) false, .stop] ∧
      (∀ j : Nat, memRead t.buf j = if j < n.toNat then vs.getD j 0#8 else memRead s.buf j) ∧
      t.result = s.result ∧ t.twdr = vs.getLastD 0#8 ∧ t.nak = (s.nak || !a1 || !a2 || !a3)

/-- R168: a poll whose every address is refused never ends, the status codes being distinct (D8), and a bus that
never answers holds the block for ever; FLT stays 0. -/
def Obligations.HangsAreAdmitted : Prop :=
  (∀ (m : Nat) (s : State) (c : Instr) (i : Byte), decode s.lc = .command c →
    (c = .eWaitrdy ∨ (∃ a d, c = .eWrbyte a d) ∨ ∃ a, c = .eWrpage a) → Ready c .w0 i s → Distinct s.params.codes →
    s.moves = (List.replicate m (opMoves .ok ++ opMoves .nack ++ [.block])).flatten →
    ∃ t, core.run s.moves.length s = .next t ∧ Ready c .w0 i t ∧ t.busy = true ∧ t.flt = false ∧ t.nak = s.nak) ∧
  (∀ (m : Nat) (s : State), Inv s → s.pend ≠ none → s.moves = List.replicate m .block →
    core.run m s = .next { s with moves := [] } ∧ s.busy = true ∧ s.flt = false)

/-! ### FAULT -/

/-- R167: an ENV fault enters S_FAULT from any label of any running command, with nothing else changed. -/
def Obligations.FaultEntryStopsTheBlock : Prop :=
  ∀ (s : State) (q : BusOp) (r : Response) (rest : List Move) (code : BitVec 5), Inv s → s.pend = some q → q ≠ .stop →
    (r = .arbLost ∧ code = s.params.codes.arbLost ∨ r = .busError ∧ code = s.params.codes.busError) →
    s.moves = .env r :: rest →
    step s = .next { s with
      moves := rest, twsrCode := code, twcr := s.twcr ||| 0x80#8, pend := none, sch := .fault,
      trace := s.trace ++ [.fault (code ++ 0#3)] }

/-- R43, R180: in S_FAULT BUSY and FLT read 1, no BLOCK or ENV step is enabled, a write of CMD_OP or BUF only sets OVR,
and of all moves only reset leaves S_FAULT. -/
def Obligations.OnlyResetLeavesFault : Prop :=
  ∀ (s : State) (m : Move) (rest : List Move), s.sch = .fault → s.pend = none → s.moves = m :: rest →
    s.busy = true ∧ s.flt = true ∧ (m = .block → step s = .next { s with moves := rest }) ∧
    (∀ r, m = .env r → step s = .next { s with moves := rest }) ∧
    (∀ h v, m = .hostWrite h v → (h = 0x000#9 ∨ 0x100 ≤ h.toNat) → step s = .next { s with moves := rest, ovr := true }) ∧
    (∀ t, step s = .next t → (t.sch = .fault ∧ t.bph = s.bph ∧ t.pend = none ∧ t.trace = s.trace ∧ t.buf = s.buf ∧
      t.cmdOp = s.cmdOp ∧ t.lc = s.lc) ∨ ∃ bytes, m = .rst bytes ∧ t.sch = .idle) ∧
    (∀ bytes, m = .rst bytes → ∃ t, step s = .next t ∧ t.sch = .idle)

/-! ### What changes each piece of state -/

/-- R26: RESULT changes only at P.STATUS's S0, at the completion of P.RXBYTE and of E.RDBYTE's B5, and at reset, and
then to the value each gives. -/
def Obligations.OnlyResultCommandsWriteResult : Prop :=
  ∀ s t : State, Inv s → step s = .next t → t.result ≠ s.result →
    ∃ m rest, s.moves = m :: rest ∧
      ((m = .block ∧ (∃ i, s.sch = .run .pStatus .s0 i) ∧ t.result = s.status) ∨
       (∃ v, m = .env (.data v) ∧ ((∃ i, s.sch = .run .pRxbyte .s0 i) ∨ ∃ i, s.sch = .run .eRdbyte .b5 i) ∧
         t.result = v) ∨
       ∃ bytes, m = .rst bytes ∧ t.result = 0x00#8)

/-- R38, R53, R58: a byte of BUF changes only by a host write to its address while BUSY = 0, by a receive of E.RDSEQ,
and at reset. -/
def Obligations.OnlyHostAndRdseqWriteBuf : Prop :=
  ∀ (s t : State) (j : Byte), Inv s → step s = .next t → t.bufAt j ≠ s.bufAt j →
    ∃ m rest, s.moves = m :: rest ∧
      ((∃ h v, m = .hostWrite h v ∧ h.toNat = 0x100 + j.toNat ∧ s.busy = false ∧ t.bufAt j = v) ∨
       (∃ v i, m = .env (.data v) ∧ t.bufAt j = v ∧
         (s.sch = .run .eRdseq .b5 i ∧ j = i ∨ s.sch = .run .eRdseq .b6 i ∧ j = cwB s.lc - 1#8)) ∨
       ∃ bytes, m = .rst bytes)

/-- R25, R36, R37: LC changes only at an accepted launch and at reset; TWBR and TWSR.PRESC only at P.INIT's S0 and at
reset. The model's choice: the parameters P_EE_SLA7 (R8, R131) and STATUS_CODE (R8, R35) are a field that no step
writes, reset included (log 5, log 6). -/
def Obligations.OnlyLaunchWritesLatchOnlyInitWritesClock : Prop :=
  ∀ s t : State, Inv s → step s = .next t →
    t.params = s.params ∧
    (t.lc ≠ s.lc → ∃ m rest, s.moves = m :: rest ∧
      ((∃ v, m = .hostWrite 0x000#9 v ∧ s.sch = .idle ∧ t.busy = true ∧ t.lc = cmdWordOf v s.cmdA s.cmdB s.cmdF) ∨
       ∃ bytes, m = .rst bytes)) ∧
    (t.twbr ≠ s.twbr ∨ t.twsrPresc ≠ s.twsrPresc → ∃ m rest, s.moves = m :: rest ∧
      ((m = .block ∧ (∃ i, s.sch = .run .pInit .s0 i) ∧ t.twbr = cwA s.lc ∧ t.twsrPresc = s.lc.extractLsb' 8 3) ∨
       ∃ bytes, m = .rst bytes))

/-- R40: BPH changes only at the completion of a bus operation, along the edges R40 draws, and at reset. -/
def Obligations.BusPhaseFollowsItsEdges : Prop :=
  ∀ s t : State, Inv s → step s = .next t → t.bph ≠ s.bph →
    ∃ m rest, s.moves = m :: rest ∧
      ((∃ rep, m = .env .ok ∧ s.pend = some (.start rep) ∧ t.bph = .addr) ∨
       (∃ b a, m = .env (ackOf a) ∧ s.pend = some (.write b (.addr .w)) ∧ s.bph = .addr ∧
         t.bph = if a then .mt else .mtNak) ∨
       (∃ b a, m = .env (ackOf a) ∧ s.pend = some (.write b (.addr .r)) ∧ s.bph = .addr ∧
         t.bph = if a then .mr else .mrNak) ∨
       (m = .env .ok ∧ s.pend = some .stop ∧ s.bph ≠ .idle ∧ t.bph = .idle) ∨
       ∃ bytes, m = .rst bytes ∧ t.bph = .idle)

/-- R28: BUSY rises only at an accepted launch and falls only at the END step of the running command and at reset. -/
def Obligations.BusyRisesAtLaunchAndFallsAtEnd : Prop :=
  ∀ s t : State, Inv s → step s = .next t →
    (s.busy = false → t.busy = true →
      ∃ v rest c, s.moves = .hostWrite 0x000#9 v :: rest ∧ decode (cmdWordOf v s.cmdA s.cmdB s.cmdF) = .command c ∧
        legalPhase c.op s.bph = true ∧ t.errcode = .none ∧ t.sch = .run c.op (firstLabel c.op) 0#8) ∧
    (s.busy = true → t.busy = false →
      ∃ m rest, s.moves = m :: rest ∧
        ((m = .block ∧ ∃ op i, s.sch = .run op .fin i) ∨ ∃ bytes, m = .rst bytes))

/-- R29: SSTAT.NAK after a step: set by a not-acknowledge that an E command receives outside the poll, cleared by the
host's write of SSTAT bit 1 and by reset, else as before. -/
def Obligations.NakRecordsUnpolledNotAcknowledge : Prop :=
  ∀ (s t : State) (m : Move) (rest : List Move), Inv s → s.moves = m :: rest → step s = .next t →
    t.nak = match m with
      | .env .nack =>
        s.nak || (match s.sch, s.pend with
          | .run op l _, some (.write _ _) => op.isE && l != .w1
          | _, _ => false)
      | .hostWrite h v => s.nak && !(h == 0x005#9 && v.getLsbD 1)
      | .rst _ => false
      | _ => s.nak

/-- R23, R30: SSTAT.OVR after a step: set by a write of CMD_OP or BUF while BUSY = 1, cleared by the host's write of
SSTAT bit 2 and by reset, else as before; and CMD_OP changes only by a write while BUSY = 0 and by reset. -/
def Obligations.OvrRecordsDroppedWrites : Prop :=
  ∀ (s t : State) (m : Move) (rest : List Move), Inv s → s.moves = m :: rest → step s = .next t →
    (t.ovr = match m with
      | .hostWrite h v =>
        if s.busy && (h == 0x000#9 || decide (0x100 ≤ h.toNat)) then true
        else s.ovr && !(h == 0x005#9 && v.getLsbD 2)
      | .rst _ => false
      | _ => s.ovr) ∧
    (t.cmdOp = match m with
      | .hostWrite h v => if h == 0x000#9 && !s.busy then v else s.cmdOp
      | .rst _ => 0x00#8
      | _ => s.cmdOp)

/-- R31: ERRCODE is written at every write of CMD_OP made while BUSY = 0, with NONE exactly if the launch is accepted,
and by nothing else but reset. -/
def Obligations.ErrcodeIsTheLastLaunchOutcome : Prop :=
  ∀ (s t : State) (m : Move) (rest : List Move), Inv s → s.moves = m :: rest → step s = .next t →
    ((∃ v, m = .hostWrite 0x000#9 v) ∧ s.busy = false → (t.errcode = .none ↔ t.busy = true)) ∧
    (¬ ((∃ v, m = .hostWrite 0x000#9 v) ∧ s.busy = false) → (∀ bytes, m ≠ .rst bytes) → t.errcode = s.errcode) ∧
    (∀ bytes, m = .rst bytes → t.errcode = .none)

/-! ### Isolation of the running command from the host -/

/-- R169: no host access made while BUSY = 1 changes anything of the running command or of the bus. -/
def Obligations.HostCannotDisturbARunningCommand : Prop :=
  ∀ (s : State) (m : Move) (rest : List Move), s.busy = true → s.moves = m :: rest →
    ((∃ h, m = .hostRead h) ∨ ∃ h v, m = .hostWrite h v) →
    ∃ t, step s = .next t ∧
      t = { s with
        moves := rest, cmdA := t.cmdA, cmdB := t.cmdB, cmdF := t.cmdF, nak := t.nak, ovr := t.ovr, reads := t.reads }

/-- R25, R63: the running command does not read the command registers, the SSTAT flags or what the host has read: two
states that differ in these alone take steps that differ in these alone, and in the same way but for NAK. -/
def Obligations.StagingNeverReachesARunningCommand : Prop :=
  ∀ (s t : State) (m : Move) (rest : List Move) (op a b f : Byte) (n o : Bool) (e : ErrCode) (rd : List (HAddr × Byte)),
    s.busy = true → s.moves = m :: rest → (m = .block ∨ ∃ r, m = .env r) → step s = .next t →
    ∃ n', step { s with cmdOp := op, cmdA := a, cmdB := b, cmdF := f, nak := n, ovr := o, errcode := e, reads := rd } =
      .next { t with cmdOp := op, cmdA := a, cmdB := b, cmdF := f, nak := n', ovr := o, errcode := e, reads := rd }

/-! ### Invariants -/

/-- R35, R45: the invariant holds after reset, R35's defaults, which State.reset takes (log 6), being distinct. -/
def Obligations.InvariantHoldsAtReset : Prop := Inv State.reset

/-- R32, R40 to R43, R118, R130: every step keeps the invariant: BUF in canonical form, the hardwired bits of TWCR zero,
the status codes distinct, and SCH, PEND, LC, BPH and TWSR.CODE in agreement. -/
def Obligations.EveryStepKeepsTheInvariant : Prop :=
  ∀ s t : State, Inv s → step s = .next t → Inv t

/-- From every state that meets the invariant, and with every move, the machine takes a step: nothing is refused and
nothing stops. -/
def Obligations.NoStepIsRefusedOrStops : Prop := ∀ s : State, Inv s → Safe s

/-- R118: no bus primitive is issued out of sequence, by a P command or an E command. -/
def Obligations.NoPrimitiveOutOfSequence : Prop :=
  ∀ (s t : State) (q : BusOp), Inv s → step s = .next t → s.pend = none → t.pend = some q →
    ∃ p : Prim, q = p.busOp s.bph ∧ p.inSequence s.bph = true

/-- R130: an E command ends with the bus idle, TWSR.CODE = NO_INFO and BUSY = 0 in one step. -/
def Obligations.ECommandEndsWithTheBusIdle : Prop :=
  ∀ (s t : State) (op : Op) (i : Byte) (rest : List Move), Inv s → op.isE = true → s.sch = .run op .fin i →
    s.moves = .block :: rest → step s = .next t → t.sch = .idle ∧ t.bph = .idle ∧ t.status = s.params.codes.noInfo ++ 0#3

/-- R11, R39, R188: between resets every transaction on the bus is bracketed by a start and a stop, no two interleave,
and BPH is IDLE exactly outside a transaction. -/
def Obligations.TransactionsStayBracketed : Prop :=
  BusBracketed State.reset ∧
  ∀ s t : State, Inv s → BusBracketed s → (∀ bytes rest, s.moves ≠ .rst bytes :: rest) → step s = .next t →
    BusBracketed t

/-! ### Frames -/

/-- The frame of P.START, P.STOP, P.TXADDR, P.TXBYTE: RESULT, NAK, the clock and BUF stay; P.START and P.STOP leave
TWDR. -/
def Obligations.BusPrimitivesKeepTheRest : Prop :=
  ∀ (c : Instr) (s t : State),
    (c = .pStart ∨ c = .pStop ∨ (∃ sla dir, c = .pTxaddr sla dir) ∨ ∃ d, c = .pTxbyte d) → exec c s = .next t →
    CommonFrame s t ∧ BufUnchanged s t ∧ t.result = s.result ∧ t.nak = s.nak ∧ t.twbr = s.twbr ∧
    t.twsrPresc = s.twsrPresc ∧ (c = .pStart ∨ c = .pStop → s.pend = none ∨ s.pend = some .stop ∨
      (∃ rep, s.pend = some (.start rep)) → t.twdr = s.twdr)

/-- The frame of P.STATUS and P.INIT: no bus register, no bus event; P.STATUS leaves the clock, P.INIT leaves RESULT. -/
def Obligations.InternalCommandsKeepTheRest : Prop :=
  ∀ (c : Instr) (s t : State), (c = .pStatus ∨ ∃ r p, c = .pInit r p) → exec c s = .next t →
    CommonFrame s t ∧ BufUnchanged s t ∧ t.nak = s.nak ∧ t.twcr = s.twcr ∧ t.twdr = s.twdr ∧
    t.twsrCode = s.twsrCode ∧ t.bph = s.bph ∧ t.pend = s.pend ∧ t.trace = s.trace ∧
    (c = .pStatus → t.twbr = s.twbr ∧ t.twsrPresc = s.twsrPresc) ∧ (c ≠ .pStatus → t.result = s.result)

/-- The frame of the commands that receive one byte, P.RXBYTE and E.RDBYTE: the clock and BUF stay; P.RXBYTE leaves
NAK, and RESULT stays but where a receive completes. -/
def Obligations.SingleReceivesKeepTheRest : Prop :=
  ∀ (c : Instr) (s t : State), ((∃ k, c = .pRxbyte k) ∨ ∃ a, c = .eRdbyte a) → exec c s = .next t →
    CommonFrame s t ∧ BufUnchanged s t ∧ t.twbr = s.twbr ∧ t.twsrPresc = s.twsrPresc ∧
    ((∃ k, c = .pRxbyte k) → t.nak = s.nak) ∧ ((∀ v, s.answer ≠ some (.data v)) → t.result = s.result)

/-- The frame of the commands that only write the device, E.WRBYTE, E.WRPAGE and E.WAITRDY: RESULT, the clock and BUF
stay; E.WAITRDY leaves NAK. -/
def Obligations.DeviceWritesKeepTheRest : Prop :=
  ∀ (c : Instr) (s t : State), ((∃ a d, c = .eWrbyte a d) ∨ (∃ a, c = .eWrpage a) ∨ c = .eWaitrdy) →
    exec c s = .next t →
    CommonFrame s t ∧ BufUnchanged s t ∧ t.result = s.result ∧ t.twbr = s.twbr ∧ t.twsrPresc = s.twsrPresc ∧
    (c = .eWaitrdy → t.nak = s.nak)

/-- The frame of E.RDSEQ: RESULT and the clock stay; the one byte of BUF that can change is BUF[i] at B5 and BUF[n - 1]
at B6, and at every other label BUF stays. -/
def Obligations.SequentialReadStoresOneByte : Prop :=
  ∀ (a n : Byte) (s t : State), exec (.eRdseq a n) s = .next t →
    CommonFrame s t ∧ t.result = s.result ∧ t.twbr = s.twbr ∧ t.twsrPresc = s.twsrPresc ∧
    (∀ i : Byte, s.sch = .run .eRdseq .b5 i → ∀ x : Nat, x ≠ i.toNat → memRead t.buf x = memRead s.buf x) ∧
    (∀ i : Byte, s.sch = .run .eRdseq .b6 i → ∀ x : Nat, x ≠ (n - 1#8).toNat → memRead t.buf x = memRead s.buf x) ∧
    ((∀ i, s.sch ≠ .run .eRdseq .b5 i ∧ s.sch ≠ .run .eRdseq .b6 i) → BufUnchanged s t)

/-! ### Round trips over the reference device -/

/-- R141 (1), with REFDEV as ENV (R66 to R71), in the bench's interleaving (log 15): E.WRBYTE a, d and then E.RDBYTE a
leave RESULT = d, whatever the write-cycle lengths. -/
def Obligations.WrittenByteReadsBack : Prop :=
  ∀ (a d : Byte) (b : Bench), Inv b.block → AtRest b.block → DeviceReady b →
    b.program = call (.eWrbyte a d) ++ call (.eRdbyte a) →
    ∃ k b', b.run k = .next b' ∧ b'.program = [] ∧ b'.block.busy = false ∧ b'.block.result = d ∧
      b'.block.nak = b.block.nak ∧ memRead b'.dev.mem a.toNat = d ∧
      ∀ x, x ≠ a.toNat → memRead b'.dev.mem x = memRead b.dev.mem x

/-- R141 (2), likewise: E.WRPAGE a and then E.RDSEQ eff(a), 8 leave BUF[0..7] as they were, and the page at eff(a)
holds them. -/
def Obligations.WrittenPageReadsBack : Prop :=
  ∀ (a : Byte) (b : Bench), Inv b.block → AtRest b.block → DeviceReady b →
    b.program = call (.eWrpage a) ++ call (.eRdseq (eff a) 8#8) →
    ∃ k b', b.run k = .next b' ∧ b'.program = [] ∧ b'.block.busy = false ∧ b'.block.buf = b.block.buf ∧
      ∀ j, j < 8 → memRead b'.dev.mem ((eff a).toNat + j) = memRead b.block.buf j
end

