-- ==== Sys2Proof/Laws/Asm.lean ====
section
/-! SUPPORT. The digits of the assembler and the disassembler (30_encoding.md R92, R99). -/

namespace Sys2Proof.Asm

/-- The assembler reads back every digit the disassembler prints. -/
@[simp] theorem hexDigit_hexChar : ∀ n : Nat, n < 16 → hexDigit (hexChar n) = some n := by decide

/-- Both cases of a hexadecimal letter are read (log 18). -/
theorem hexDigit_smallDigits : ∀ n : Nat, n < 16 → hexDigit (smallDigits.getD n '0') = some n := by decide

/-- A digit is worth less than 16. -/
theorem hexDigit_lt {c : Char} {d : Nat} (h : hexDigit c = some d) : d < 16 := by
  have bound : ∀ l : List Char, l.length = 16 → l.idxOf? c = some d → d < 16 := by
    intro l hl h'
    obtain ⟨hd, -⟩ := List.findIdx?_eq_some_iff_getElem.mp h'
    omega
  unfold hexDigit at h
  cases hc : capitalDigits.idxOf? c with
  | some e =>
    rw [hc, Option.some_or] at h
    exact bound _ (by decide) (hc.trans h)
  | none =>
    rw [hc, Option.none_or] at h
    exact bound _ (by decide) h

end Sys2Proof.Asm
end

