-- ==== Sys2Proof/Laws/Encoding.lean ====
section
/-! SUPPORT. The fields of a command word, and the decoder said once in terms of the operand bytes (30_encoding.md R83 to R87). -/

namespace Sys2Proof

theorem getLsbD_cmdWordOf (o a b f : Byte) (i : Nat) : (cmdWordOf o a b f).getLsbD i =
    if i < 8 then f.getLsbD i else if i < 16 then b.getLsbD (i - 8) else if i < 24 then a.getLsbD (i - 16) else o.getLsbD (i - 24) := by
  show (((o ++ a : BitVec (8 + 8)) ++ b : BitVec (8 + 8 + 8)) ++ f : BitVec (8+8+8+8)).getLsbD i = _
  rw [BitVec.getLsbD_append, BitVec.getLsbD_append, BitVec.getLsbD_append]
  have e1 : i - 8 - 8 = i - 16 := by omega
  have e2 : i - 16 - 8 = i - 24 := by omega
  by_cases h1 : i < 8
  · rw [if_pos h1, if_pos h1]
  · rw [if_neg h1, if_neg h1, e1, e2]
    by_cases h2 : i < 16
    · rw [if_pos h2, if_pos (show i - 8 < 8 by omega)]
    · rw [if_neg h2, if_neg (show ¬ i - 8 < 8 by omega)]
      by_cases h3 : i < 24
      · rw [if_pos h3, if_pos (show i - 16 < 8 by omega)]
      · rw [if_neg h3, if_neg (show ¬ i - 16 < 8 by omega)]

@[simp] theorem cwOp_cmdWordOf (o a b f : Byte) : cwOp (cmdWordOf o a b f) = o := by
  apply BitVec.eq_of_getLsbD_eq
  intro i hi
  simp [cwOp, getLsbD_cmdWordOf, hi, show ¬ (24 + i < 8) by omega, show ¬ (24 + i < 16) by omega]

@[simp] theorem cwA_cmdWordOf (o a b f : Byte) : cwA (cmdWordOf o a b f) = a := by
  apply BitVec.eq_of_getLsbD_eq
  intro i hi
  simp [cwA, getLsbD_cmdWordOf, hi, show ¬ (16 + i < 8) by omega, show ¬ (16 + i < 16) by omega, show 16 + i < 24 by omega]

@[simp] theorem cwB_cmdWordOf (o a b f : Byte) : cwB (cmdWordOf o a b f) = b := by
  apply BitVec.eq_of_getLsbD_eq
  intro i hi
  simp [cwB, getLsbD_cmdWordOf, hi, show ¬ (8 + i < 8) by omega, show (8 + i < 16) by omega]

@[simp] theorem cwF_cmdWordOf (o a b f : Byte) : cwF (cmdWordOf o a b f) = f := by
  apply BitVec.eq_of_getLsbD_eq
  intro i hi
  simp [cwF, getLsbD_cmdWordOf, hi]

theorem cmdWordOf_fields (cw : CmdWord) : cmdWordOf (cwOp cw) (cwA cw) (cwB cw) (cwF cw) = cw := by
  apply BitVec.eq_of_getLsbD_eq
  intro i hi
  simp only [getLsbD_cmdWordOf, cwOp, cwA, cwB, cwF, BitVec.getLsbD_extractLsb']
  repeat' split
  all_goals first | (have : i < 8 := ‹_›; simp [*]) | skip
  · simp [show i - 8 < 8 by omega, show 8 + (i - 8) = i by omega]
  · simp [show i - 16 < 8 by omega, show 16 + (i - 16) = i by omega]
  · simp [show i - 24 < 8 by omega, show 24 + (i - 24) = i by omega]

theorem and_cmdWordOf (o a b f o' a' b' f' : Byte) :
    cmdWordOf o a b f &&& cmdWordOf o' a' b' f' = cmdWordOf (o &&& o') (a &&& a') (b &&& b') (f &&& f') := by
  apply BitVec.eq_of_getLsbD_eq
  intro i hi
  simp only [BitVec.getLsbD_and, getLsbD_cmdWordOf]
  repeat' split
  all_goals rfl

theorem cmdWordOf_inj {o a b f o' a' b' f' : Byte} :
    cmdWordOf o a b f = cmdWordOf o' a' b' f' ↔ o = o' ∧ a = a' ∧ b = b' ∧ f = f' := by
  constructor
  · intro h
    exact ⟨by simpa using congrArg cwOp h, by simpa using congrArg cwA h, by simpa using congrArg cwB h, by simpa using congrArg cwF h⟩
  · rintro ⟨rfl, rfl, rfl, rfl⟩; rfl

/-- Operand fields of a word, read off its operand bytes (R82). -/
theorem extractLsb'_17_7 (cw : CmdWord) : cw.extractLsb' 17 7 = (cwA cw).extractLsb' 1 7 := by
  apply BitVec.eq_of_getLsbD_eq
  intro i hi
  simp [cwA, hi, show 1 + i < 8 by omega, show 16 + (1 + i) = 17 + i by omega]

theorem extractLsb'_8_3 (cw : CmdWord) : cw.extractLsb' 8 3 = (cwB cw).extractLsb' 0 3 := by
  apply BitVec.eq_of_getLsbD_eq
  intro i hi
  simp [cwB, hi, show i < 8 by omega]

theorem getLsbD_zero_cw (cw : CmdWord) : cw.getLsbD 0 = (cwF cw).getLsbD 0 := by simp [cwF]

/-- Bit 16 of a word is A[0] (R80, R87). -/
theorem xor_bit16_fields (cw : CmdWord) : cwOp (cw ^^^ 0x00010000#32) = cwOp cw ∧
    cwA (cw ^^^ 0x00010000#32) = cwA cw ^^^ 1#8 ∧ cwB (cw ^^^ 0x00010000#32) = cwB cw ∧
    cwF (cw ^^^ 0x00010000#32) = cwF cw := by
  refine ⟨?_, ?_, ?_, ?_⟩ <;> simp only [cwOp, cwA, cwB, cwF] <;> rw [BitVec.extractLsb'_xor] <;> simp

theorem and_clear_bit16 (cw : CmdWord) :
    cw &&& 0xFFFEFFFF#32 = cmdWordOf (cwOp cw) (cwA cw &&& 0xFE#8) (cwB cw) (cwF cw) := by
  have e0 : ∀ p : Byte, p &&& 0xFF#8 = p := by decide +kernel
  conv_lhs => rw [← cmdWordOf_fields cw,
    show (0xFFFEFFFF#32) = cmdWordOf 0xFF#8 0xFE#8 0xFF#8 0xFF#8 by decide, and_cmdWordOf]
  simp only [e0]

/-- The row of a command's opcode (R83), found whatever the operand bytes. -/
def Op.row (op : Op) : Row := opcodeMap.getD (match op with
  | .pStatus => 0 | .pStart => 1 | .pStop => 2 | .pTxaddr => 3 | .pTxbyte => 4 | .pRxbyte => 5 | .pInit => 6
  | .eWrbyte => 7 | .eRdbyte => 8 | .eWrpage => 9 | .eRdseq => 10 | .eWaitrdy => 11) ⟨.pStatus, 0, 0⟩

theorem rowOf_of_op {cw : CmdWord} {op : Op} (h : cwOp cw = op.byte) : rowOf cw = some op.row := by
  unfold rowOf
  rw [h]
  cases op <;> decide

/-- The must-be-zero bits of A, by command (R86). -/
def maskA : Op → Byte
  | .pStatus | .pStart | .pStop | .pRxbyte | .eWaitrdy => 0xFF#8
  | _ => 0#8

/-- The must-be-zero bits of B, by command (R86). -/
def maskB : Op → Byte
  | .pInit => 0xF8#8
  | .eWrbyte | .eRdseq => 0#8
  | _ => 0xFF#8

/-- The must-be-zero bits of F, by command (R86). -/
def maskF : Op → Byte
  | .pTxaddr | .pRxbyte => 0xFE#8
  | _ => 0xFF#8

/-- A word whose OP is in the map decodes to its command exactly when its must-be-zero bits are 0. -/
theorem decode_of_op {cw : CmdWord} {op : Op} (h : cwOp cw = op.byte) : decode cw =
    if cwA cw &&& maskA op = 0#8 ∧ cwB cw &&& maskB op = 0#8 ∧ cwF cw &&& maskF op = 0#8 then
      .command (operands op cw) else .reservedField := by
  have hm : op.row.mask = cmdWordOf 0xFF#8 (maskA op) (maskB op) (maskF op) := by cases op <;> decide
  have hp : op.row.pattern = cmdWordOf op.byte 0#8 0#8 0#8 := by cases op <;> decide
  have ho : op.row.op = op := by cases op <;> rfl
  unfold decode
  rw [rowOf_of_op h]
  have key : (cw &&& op.row.mask = op.row.pattern) ↔ (cwA cw &&& maskA op = 0#8 ∧ cwB cw &&& maskB op = 0#8 ∧ cwF cw &&& maskF op = 0#8) := by
    rw [hm, hp]
    conv_lhs => rw [← cmdWordOf_fields cw]
    rw [and_cmdWordOf, cmdWordOf_inj, h]
    have : op.byte &&& 0xFF#8 = op.byte := by cases op <;> decide
    simp [this]
  simp only [key, ho]

theorem cwOp_cases (cw : CmdWord) : (∃ op : Op, cwOp cw = op.byte) ∨ rowOf cw = none := by
  by_cases h : rowOf cw = none
  · exact .inr h
  · left
    obtain ⟨r, hr⟩ := Option.ne_none_iff_exists'.mp h
    have hmem := List.mem_of_find?_eq_some hr
    have hq := List.find?_some hr
    simp only [beq_iff_eq] at hq
    have hall : ∀ r ∈ opcodeMap, cwOp r.pattern = r.op.byte := by decide
    exact ⟨r.op, by rw [← hq]; exact hall r hmem⟩

/-- A word decodes to no command exactly when its OP is in no row. -/
theorem decode_illegalOp_iff {cw : CmdWord} : decode cw = .illegalOp ↔ rowOf cw = none := by
  unfold decode
  cases h : rowOf cw with
  | none => simp
  | some r => simp only [reduceCtorEq, iff_false]; split <;> simp

/-- The command a word decodes to belongs to the word's row. -/
theorem op_of_decode {cw : CmdWord} {c : Instr} (h : decode cw = .command c) :
    cwOp cw = c.op.byte ∧ c = operands c.op cw := by
  rcases cwOp_cases cw with ⟨op, hop⟩ | hnone
  · rw [decode_of_op hop] at h
    split at h
    · have hc : operands op cw = c := by simpa using h
      have ho : (operands op cw).op = op := by cases op <;> rfl
      rw [← hc, ho]
      exact ⟨hop, rfl⟩
    · exact absurd h (by simp)
  · rw [decode_illegalOp_iff.mpr hnone] at h
    exact absurd h (by simp)

end Sys2Proof
end

