-- ==== Sys2Proof/Laws/Memory.lean ====
section
/-! SUPPORT. The laws of a memory in canonical form: a read after a write, the form kept by every operation, and equal reads giving equal memories. -/

namespace Sys2Proof.Machine

theorem memRead_below {hi : Nat} : ∀ {m : List Host.Cell} {lo a : Nat},
    memWfFrom hi lo m = true → a < lo → memRead m a = Config.unlistedByte
  | [], _, _, _, _ => rfl
  | (b, v) :: rest, lo, a, h, ha => by
    simp only [memWfFrom, Bool.and_eq_true, decide_eq_true_eq] at h
    have hne : a ≠ b := by omega
    simp only [memRead, hne, if_false]
    exact memRead_below h.2 (by omega)

theorem memWfFrom_mono {hi : Nat} : ∀ {m : List Host.Cell} {lo lo' : Nat},
    memWfFrom hi lo m = true → lo' ≤ lo → memWfFrom hi lo' m = true
  | [], _, _, _, _ => rfl
  | (b, v) :: rest, lo, lo', h, hl => by
    simp only [memWfFrom, Bool.and_eq_true, decide_eq_true_eq] at h ⊢
    exact ⟨⟨⟨by omega, h.1.1.2⟩, h.1.2⟩, h.2⟩

/-- A read after a write to the same index gives the value written. -/
theorem memRead_memWrite_same {hi : Nat} : ∀ {m : List Host.Cell} {lo : Nat} (a : Nat) (v : Byte),
    memWfFrom hi lo m = true → memRead (memWrite m a v) a = v
  | [], _, a, v, _ => by
    simp only [memWrite]
    split <;> simp_all [memRead]
  | (b, w) :: rest, lo, a, v, h => by
    simp only [memWfFrom, Bool.and_eq_true, decide_eq_true_eq] at h
    simp only [memWrite]
    split
    · next hlt =>
      split
      · next hv =>
        rw [hv]
        simp only [memRead, show a ≠ b by omega, if_false]
        exact memRead_below h.2 (by omega)
      · simp [memRead]
    · split
      · next heq =>
        split
        · next hv =>
          rw [hv]
          exact memRead_below h.2 (by omega)
        · simp [memRead]
      · next hne =>
        simp only [memRead, hne, if_false]
        exact memRead_memWrite_same a v h.2

/-- A write leaves every other index alone. -/
theorem memRead_memWrite_other : ∀ {m : List Host.Cell} {a b : Nat} (v : Byte),
    b ≠ a → memRead (memWrite m a v) b = memRead m b
  | [], a, b, v, h => by
    simp only [memWrite]
    split <;> simp [memRead, h]
  | (c, w) :: rest, a, b, v, h => by
    simp only [memWrite]
    split
    · split
      · rfl
      · simp [memRead, h]
    · split
      · next heq =>
        subst heq
        split <;> simp [memRead, h]
      · simp only [memRead]
        split
        · rfl
        · exact memRead_memWrite_other v h

theorem memWfFrom_memWrite {hi : Nat} : ∀ {m : List Host.Cell} {lo a : Nat} (v : Byte),
    memWfFrom hi lo m = true → lo ≤ a → a < hi → memWfFrom hi lo (memWrite m a v) = true
  | [], lo, a, v, _, hlo, hhi => by
    simp only [memWrite]
    split
    · rfl
    · next hv => simp [memWfFrom, hlo, hhi, hv]
  | (b, w) :: rest, lo, a, v, h, hlo, hhi => by
    simp only [memWfFrom, Bool.and_eq_true, decide_eq_true_eq] at h
    simp only [memWrite]
    split
    · next hlt =>
      split
      · simp [memWfFrom, h]
      · next hv =>
        simp only [memWfFrom, Bool.and_eq_true, decide_eq_true_eq]
        exact ⟨⟨⟨hlo, hhi⟩, hv⟩, ⟨⟨by omega, h.1.1.2⟩, h.1.2⟩, h.2⟩
    · split
      · next heq =>
        split
        · exact memWfFrom_mono h.2 (by omega)
        · next hv =>
          simp only [memWfFrom, Bool.and_eq_true, decide_eq_true_eq]
          exact ⟨⟨⟨hlo, hhi⟩, hv⟩, by rw [heq]; exact h.2⟩
      · simp only [memWfFrom, Bool.and_eq_true, decide_eq_true_eq]
        exact ⟨⟨⟨h.1.1.1, h.1.1.2⟩, h.1.2⟩, memWfFrom_memWrite v h.2 (by omega) hhi⟩

/-- Every write of BUF keeps the canonical form. -/
theorem wf_memWrite {m : List Host.Cell} (i v : Byte) (h : Memory.wf m = true) :
    Memory.wf (memWrite m i.toNat v) = true :=
  memWfFrom_memWrite v h (Nat.zero_le _) i.isLt

/-- BUF filled from outside is in canonical form. -/
theorem memWfFrom_memOfBytes : ∀ (bs : List Byte) (a : Nat), memWfFrom Config.bufSize a (memOfBytes a bs) = true
  | [], _ => rfl
  | v :: rest, a => by
    simp only [memOfBytes]
    split
    · next h =>
      exact memWfFrom_memWrite v (memWfFrom_mono (memWfFrom_memOfBytes rest (a + 1)) (Nat.le_succ a)) (Nat.le_refl a) h
    · rfl

theorem wf_memOfBytes (bs : List Byte) : Memory.wf (memOfBytes 0 bs) = true := memWfFrom_memOfBytes bs 0

/-- BUF filled from outside reads as the bytes given. -/
theorem memRead_memOfBytes : ∀ (bs : List Byte) (a j : Nat), a ≤ j → j < Config.bufSize →
    memRead (memOfBytes a bs) j = bs.getD (j - a) 0x00#8
  | [], a, j, _, _ => by simp [memOfBytes, memRead, Config.unlistedByte]
  | v :: rest, a, j, h, hj => by
    simp only [memOfBytes]
    rw [if_pos (show a < Config.bufSize by omega)]
    by_cases e : j = a
    · subst e
      rw [memRead_memWrite_same _ _ (memWfFrom_memOfBytes rest (j + 1))]
      simp
    · rw [memRead_memWrite_other _ e, memRead_memOfBytes rest (a + 1) j (by omega) hj,
        show j - a = (j - (a + 1)) + 1 by omega]
      simp

/-- Memories in canonical form that read alike are equal. -/
theorem mem_ext {hi : Nat} : ∀ {m n : List Host.Cell} {lo : Nat},
    memWfFrom hi lo m = true → memWfFrom hi lo n = true → (∀ a, memRead m a = memRead n a) → m = n
  | [], [], _, _, _, _ => rfl
  | [], (b, v) :: rest, lo, _, hn, h => by
    simp only [memWfFrom, Bool.and_eq_true, decide_eq_true_eq] at hn
    have := h b
    simp only [memRead, if_true] at this
    exact absurd this.symm hn.1.2
  | (b, v) :: rest, [], lo, hm, _, h => by
    simp only [memWfFrom, Bool.and_eq_true, decide_eq_true_eq] at hm
    have := h b
    simp only [memRead, if_true] at this
    exact absurd this hm.1.2
  | (b, v) :: rest, (c, w) :: rest', lo, hm, hn, h => by
    simp only [memWfFrom, Bool.and_eq_true, decide_eq_true_eq] at hm hn
    have hb := h b
    have hc := h c
    have hbc : b = c := by
      rcases Nat.lt_trichotomy b c with hlt | heq | hgt
      · simp only [memRead, if_true, show b ≠ c by omega, if_false] at hb
        rw [memRead_below hn.2 (by omega)] at hb
        exact absurd hb hm.1.2
      · exact heq
      · simp only [memRead, if_true, show c ≠ b by omega, if_false] at hc
        rw [memRead_below hm.2 (by omega)] at hc
        exact absurd hc.symm hn.1.2
    subst hbc
    simp only [memRead, if_true] at hb
    subst hb
    have hrest : rest = rest' := mem_ext hm.2 hn.2 fun a => by
      by_cases hab : a = b
      · rw [hab, memRead_below hm.2 (Nat.lt_succ_self b), memRead_below hn.2 (Nat.lt_succ_self b)]
      · have := h a
        simpa only [memRead, hab, if_false] using this
    rw [hrest]

end Sys2Proof.Machine
end

