-- ==== Sys2Proof/Laws/State.lean ====
section
/-! SUPPORT. One lemma per field for each shared update of State (Machine/Ops.lean), true by rfl: later proofs rewrite with these and do not unfold the record updates. -/

namespace Sys2Proof.Machine

variable (s : State)

@[simp] theorem answering_cmdOp (r : Response) : (answering r s).cmdOp = s.cmdOp := rfl
@[simp] theorem answering_cmdA (r : Response) : (answering r s).cmdA = s.cmdA := rfl
@[simp] theorem answering_cmdB (r : Response) : (answering r s).cmdB = s.cmdB := rfl
@[simp] theorem answering_cmdF (r : Response) : (answering r s).cmdF = s.cmdF := rfl
@[simp] theorem answering_lc (r : Response) : (answering r s).lc = s.lc := rfl
@[simp] theorem answering_result (r : Response) : (answering r s).result = s.result := rfl
@[simp] theorem answering_nak (r : Response) : (answering r s).nak = s.nak := rfl
@[simp] theorem answering_ovr (r : Response) : (answering r s).ovr = s.ovr := rfl
@[simp] theorem answering_errcode (r : Response) : (answering r s).errcode = s.errcode := rfl
@[simp] theorem answering_twcr (r : Response) : (answering r s).twcr = s.twcr := rfl
@[simp] theorem answering_twdr (r : Response) : (answering r s).twdr = s.twdr := rfl
@[simp] theorem answering_twsrCode (r : Response) : (answering r s).twsrCode = s.twsrCode := rfl
@[simp] theorem answering_twsrPresc (r : Response) : (answering r s).twsrPresc = s.twsrPresc := rfl
@[simp] theorem answering_twbr (r : Response) : (answering r s).twbr = s.twbr := rfl
@[simp] theorem answering_buf (r : Response) : (answering r s).buf = s.buf := rfl
@[simp] theorem answering_bph (r : Response) : (answering r s).bph = s.bph := rfl
@[simp] theorem answering_pend (r : Response) : (answering r s).pend = s.pend := rfl
@[simp] theorem answering_sch (r : Response) : (answering r s).sch = s.sch := rfl
@[simp] theorem answering_params (r : Response) : (answering r s).params = s.params := rfl
@[simp] theorem answering_moves (r : Response) : (answering r s).moves = s.moves := rfl
@[simp] theorem answering_answer (r : Response) : (answering r s).answer = some r := rfl
@[simp] theorem answering_trace (r : Response) : (answering r s).trace = s.trace := rfl
@[simp] theorem answering_reads (r : Response) : (answering r s).reads = s.reads := rfl

@[simp] theorem dropAnswer_cmdOp : (dropAnswer s).cmdOp = s.cmdOp := rfl
@[simp] theorem dropAnswer_cmdA : (dropAnswer s).cmdA = s.cmdA := rfl
@[simp] theorem dropAnswer_cmdB : (dropAnswer s).cmdB = s.cmdB := rfl
@[simp] theorem dropAnswer_cmdF : (dropAnswer s).cmdF = s.cmdF := rfl
@[simp] theorem dropAnswer_lc : (dropAnswer s).lc = s.lc := rfl
@[simp] theorem dropAnswer_result : (dropAnswer s).result = s.result := rfl
@[simp] theorem dropAnswer_nak : (dropAnswer s).nak = s.nak := rfl
@[simp] theorem dropAnswer_ovr : (dropAnswer s).ovr = s.ovr := rfl
@[simp] theorem dropAnswer_errcode : (dropAnswer s).errcode = s.errcode := rfl
@[simp] theorem dropAnswer_twcr : (dropAnswer s).twcr = s.twcr := rfl
@[simp] theorem dropAnswer_twdr : (dropAnswer s).twdr = s.twdr := rfl
@[simp] theorem dropAnswer_twsrCode : (dropAnswer s).twsrCode = s.twsrCode := rfl
@[simp] theorem dropAnswer_twsrPresc : (dropAnswer s).twsrPresc = s.twsrPresc := rfl
@[simp] theorem dropAnswer_twbr : (dropAnswer s).twbr = s.twbr := rfl
@[simp] theorem dropAnswer_buf : (dropAnswer s).buf = s.buf := rfl
@[simp] theorem dropAnswer_bph : (dropAnswer s).bph = s.bph := rfl
@[simp] theorem dropAnswer_pend : (dropAnswer s).pend = s.pend := rfl
@[simp] theorem dropAnswer_sch : (dropAnswer s).sch = s.sch := rfl
@[simp] theorem dropAnswer_params : (dropAnswer s).params = s.params := rfl
@[simp] theorem dropAnswer_moves : (dropAnswer s).moves = s.moves := rfl
@[simp] theorem dropAnswer_answer : (dropAnswer s).answer = none := rfl
@[simp] theorem dropAnswer_trace : (dropAnswer s).trace = s.trace := rfl
@[simp] theorem dropAnswer_reads : (dropAnswer s).reads = s.reads := rfl

@[simp] theorem withMoves_cmdOp (ms : List Move) : (withMoves ms s).cmdOp = s.cmdOp := rfl
@[simp] theorem withMoves_cmdA (ms : List Move) : (withMoves ms s).cmdA = s.cmdA := rfl
@[simp] theorem withMoves_cmdB (ms : List Move) : (withMoves ms s).cmdB = s.cmdB := rfl
@[simp] theorem withMoves_cmdF (ms : List Move) : (withMoves ms s).cmdF = s.cmdF := rfl
@[simp] theorem withMoves_lc (ms : List Move) : (withMoves ms s).lc = s.lc := rfl
@[simp] theorem withMoves_result (ms : List Move) : (withMoves ms s).result = s.result := rfl
@[simp] theorem withMoves_nak (ms : List Move) : (withMoves ms s).nak = s.nak := rfl
@[simp] theorem withMoves_ovr (ms : List Move) : (withMoves ms s).ovr = s.ovr := rfl
@[simp] theorem withMoves_errcode (ms : List Move) : (withMoves ms s).errcode = s.errcode := rfl
@[simp] theorem withMoves_twcr (ms : List Move) : (withMoves ms s).twcr = s.twcr := rfl
@[simp] theorem withMoves_twdr (ms : List Move) : (withMoves ms s).twdr = s.twdr := rfl
@[simp] theorem withMoves_twsrCode (ms : List Move) : (withMoves ms s).twsrCode = s.twsrCode := rfl
@[simp] theorem withMoves_twsrPresc (ms : List Move) : (withMoves ms s).twsrPresc = s.twsrPresc := rfl
@[simp] theorem withMoves_twbr (ms : List Move) : (withMoves ms s).twbr = s.twbr := rfl
@[simp] theorem withMoves_buf (ms : List Move) : (withMoves ms s).buf = s.buf := rfl
@[simp] theorem withMoves_bph (ms : List Move) : (withMoves ms s).bph = s.bph := rfl
@[simp] theorem withMoves_pend (ms : List Move) : (withMoves ms s).pend = s.pend := rfl
@[simp] theorem withMoves_sch (ms : List Move) : (withMoves ms s).sch = s.sch := rfl
@[simp] theorem withMoves_params (ms : List Move) : (withMoves ms s).params = s.params := rfl
@[simp] theorem withMoves_moves (ms : List Move) : (withMoves ms s).moves = ms := rfl
@[simp] theorem withMoves_answer (ms : List Move) : (withMoves ms s).answer = s.answer := rfl
@[simp] theorem withMoves_trace (ms : List Move) : (withMoves ms s).trace = s.trace := rfl
@[simp] theorem withMoves_reads (ms : List Move) : (withMoves ms s).reads = s.reads := rfl

@[simp] theorem setCmdOp_cmdOp (v : Byte) : (setCmdOp v s).cmdOp = v := rfl
@[simp] theorem setCmdOp_cmdA (v : Byte) : (setCmdOp v s).cmdA = s.cmdA := rfl
@[simp] theorem setCmdOp_cmdB (v : Byte) : (setCmdOp v s).cmdB = s.cmdB := rfl
@[simp] theorem setCmdOp_cmdF (v : Byte) : (setCmdOp v s).cmdF = s.cmdF := rfl
@[simp] theorem setCmdOp_lc (v : Byte) : (setCmdOp v s).lc = s.lc := rfl
@[simp] theorem setCmdOp_result (v : Byte) : (setCmdOp v s).result = s.result := rfl
@[simp] theorem setCmdOp_nak (v : Byte) : (setCmdOp v s).nak = s.nak := rfl
@[simp] theorem setCmdOp_ovr (v : Byte) : (setCmdOp v s).ovr = s.ovr := rfl
@[simp] theorem setCmdOp_errcode (v : Byte) : (setCmdOp v s).errcode = s.errcode := rfl
@[simp] theorem setCmdOp_twcr (v : Byte) : (setCmdOp v s).twcr = s.twcr := rfl
@[simp] theorem setCmdOp_twdr (v : Byte) : (setCmdOp v s).twdr = s.twdr := rfl
@[simp] theorem setCmdOp_twsrCode (v : Byte) : (setCmdOp v s).twsrCode = s.twsrCode := rfl
@[simp] theorem setCmdOp_twsrPresc (v : Byte) : (setCmdOp v s).twsrPresc = s.twsrPresc := rfl
@[simp] theorem setCmdOp_twbr (v : Byte) : (setCmdOp v s).twbr = s.twbr := rfl
@[simp] theorem setCmdOp_buf (v : Byte) : (setCmdOp v s).buf = s.buf := rfl
@[simp] theorem setCmdOp_bph (v : Byte) : (setCmdOp v s).bph = s.bph := rfl
@[simp] theorem setCmdOp_pend (v : Byte) : (setCmdOp v s).pend = s.pend := rfl
@[simp] theorem setCmdOp_sch (v : Byte) : (setCmdOp v s).sch = s.sch := rfl
@[simp] theorem setCmdOp_params (v : Byte) : (setCmdOp v s).params = s.params := rfl
@[simp] theorem setCmdOp_moves (v : Byte) : (setCmdOp v s).moves = s.moves := rfl
@[simp] theorem setCmdOp_answer (v : Byte) : (setCmdOp v s).answer = s.answer := rfl
@[simp] theorem setCmdOp_trace (v : Byte) : (setCmdOp v s).trace = s.trace := rfl
@[simp] theorem setCmdOp_reads (v : Byte) : (setCmdOp v s).reads = s.reads := rfl

@[simp] theorem setCmdA_cmdOp (v : Byte) : (setCmdA v s).cmdOp = s.cmdOp := rfl
@[simp] theorem setCmdA_cmdA (v : Byte) : (setCmdA v s).cmdA = v := rfl
@[simp] theorem setCmdA_cmdB (v : Byte) : (setCmdA v s).cmdB = s.cmdB := rfl
@[simp] theorem setCmdA_cmdF (v : Byte) : (setCmdA v s).cmdF = s.cmdF := rfl
@[simp] theorem setCmdA_lc (v : Byte) : (setCmdA v s).lc = s.lc := rfl
@[simp] theorem setCmdA_result (v : Byte) : (setCmdA v s).result = s.result := rfl
@[simp] theorem setCmdA_nak (v : Byte) : (setCmdA v s).nak = s.nak := rfl
@[simp] theorem setCmdA_ovr (v : Byte) : (setCmdA v s).ovr = s.ovr := rfl
@[simp] theorem setCmdA_errcode (v : Byte) : (setCmdA v s).errcode = s.errcode := rfl
@[simp] theorem setCmdA_twcr (v : Byte) : (setCmdA v s).twcr = s.twcr := rfl
@[simp] theorem setCmdA_twdr (v : Byte) : (setCmdA v s).twdr = s.twdr := rfl
@[simp] theorem setCmdA_twsrCode (v : Byte) : (setCmdA v s).twsrCode = s.twsrCode := rfl
@[simp] theorem setCmdA_twsrPresc (v : Byte) : (setCmdA v s).twsrPresc = s.twsrPresc := rfl
@[simp] theorem setCmdA_twbr (v : Byte) : (setCmdA v s).twbr = s.twbr := rfl
@[simp] theorem setCmdA_buf (v : Byte) : (setCmdA v s).buf = s.buf := rfl
@[simp] theorem setCmdA_bph (v : Byte) : (setCmdA v s).bph = s.bph := rfl
@[simp] theorem setCmdA_pend (v : Byte) : (setCmdA v s).pend = s.pend := rfl
@[simp] theorem setCmdA_sch (v : Byte) : (setCmdA v s).sch = s.sch := rfl
@[simp] theorem setCmdA_params (v : Byte) : (setCmdA v s).params = s.params := rfl
@[simp] theorem setCmdA_moves (v : Byte) : (setCmdA v s).moves = s.moves := rfl
@[simp] theorem setCmdA_answer (v : Byte) : (setCmdA v s).answer = s.answer := rfl
@[simp] theorem setCmdA_trace (v : Byte) : (setCmdA v s).trace = s.trace := rfl
@[simp] theorem setCmdA_reads (v : Byte) : (setCmdA v s).reads = s.reads := rfl

@[simp] theorem setCmdB_cmdOp (v : Byte) : (setCmdB v s).cmdOp = s.cmdOp := rfl
@[simp] theorem setCmdB_cmdA (v : Byte) : (setCmdB v s).cmdA = s.cmdA := rfl
@[simp] theorem setCmdB_cmdB (v : Byte) : (setCmdB v s).cmdB = v := rfl
@[simp] theorem setCmdB_cmdF (v : Byte) : (setCmdB v s).cmdF = s.cmdF := rfl
@[simp] theorem setCmdB_lc (v : Byte) : (setCmdB v s).lc = s.lc := rfl
@[simp] theorem setCmdB_result (v : Byte) : (setCmdB v s).result = s.result := rfl
@[simp] theorem setCmdB_nak (v : Byte) : (setCmdB v s).nak = s.nak := rfl
@[simp] theorem setCmdB_ovr (v : Byte) : (setCmdB v s).ovr = s.ovr := rfl
@[simp] theorem setCmdB_errcode (v : Byte) : (setCmdB v s).errcode = s.errcode := rfl
@[simp] theorem setCmdB_twcr (v : Byte) : (setCmdB v s).twcr = s.twcr := rfl
@[simp] theorem setCmdB_twdr (v : Byte) : (setCmdB v s).twdr = s.twdr := rfl
@[simp] theorem setCmdB_twsrCode (v : Byte) : (setCmdB v s).twsrCode = s.twsrCode := rfl
@[simp] theorem setCmdB_twsrPresc (v : Byte) : (setCmdB v s).twsrPresc = s.twsrPresc := rfl
@[simp] theorem setCmdB_twbr (v : Byte) : (setCmdB v s).twbr = s.twbr := rfl
@[simp] theorem setCmdB_buf (v : Byte) : (setCmdB v s).buf = s.buf := rfl
@[simp] theorem setCmdB_bph (v : Byte) : (setCmdB v s).bph = s.bph := rfl
@[simp] theorem setCmdB_pend (v : Byte) : (setCmdB v s).pend = s.pend := rfl
@[simp] theorem setCmdB_sch (v : Byte) : (setCmdB v s).sch = s.sch := rfl
@[simp] theorem setCmdB_params (v : Byte) : (setCmdB v s).params = s.params := rfl
@[simp] theorem setCmdB_moves (v : Byte) : (setCmdB v s).moves = s.moves := rfl
@[simp] theorem setCmdB_answer (v : Byte) : (setCmdB v s).answer = s.answer := rfl
@[simp] theorem setCmdB_trace (v : Byte) : (setCmdB v s).trace = s.trace := rfl
@[simp] theorem setCmdB_reads (v : Byte) : (setCmdB v s).reads = s.reads := rfl

@[simp] theorem setCmdF_cmdOp (v : Byte) : (setCmdF v s).cmdOp = s.cmdOp := rfl
@[simp] theorem setCmdF_cmdA (v : Byte) : (setCmdF v s).cmdA = s.cmdA := rfl
@[simp] theorem setCmdF_cmdB (v : Byte) : (setCmdF v s).cmdB = s.cmdB := rfl
@[simp] theorem setCmdF_cmdF (v : Byte) : (setCmdF v s).cmdF = v := rfl
@[simp] theorem setCmdF_lc (v : Byte) : (setCmdF v s).lc = s.lc := rfl
@[simp] theorem setCmdF_result (v : Byte) : (setCmdF v s).result = s.result := rfl
@[simp] theorem setCmdF_nak (v : Byte) : (setCmdF v s).nak = s.nak := rfl
@[simp] theorem setCmdF_ovr (v : Byte) : (setCmdF v s).ovr = s.ovr := rfl
@[simp] theorem setCmdF_errcode (v : Byte) : (setCmdF v s).errcode = s.errcode := rfl
@[simp] theorem setCmdF_twcr (v : Byte) : (setCmdF v s).twcr = s.twcr := rfl
@[simp] theorem setCmdF_twdr (v : Byte) : (setCmdF v s).twdr = s.twdr := rfl
@[simp] theorem setCmdF_twsrCode (v : Byte) : (setCmdF v s).twsrCode = s.twsrCode := rfl
@[simp] theorem setCmdF_twsrPresc (v : Byte) : (setCmdF v s).twsrPresc = s.twsrPresc := rfl
@[simp] theorem setCmdF_twbr (v : Byte) : (setCmdF v s).twbr = s.twbr := rfl
@[simp] theorem setCmdF_buf (v : Byte) : (setCmdF v s).buf = s.buf := rfl
@[simp] theorem setCmdF_bph (v : Byte) : (setCmdF v s).bph = s.bph := rfl
@[simp] theorem setCmdF_pend (v : Byte) : (setCmdF v s).pend = s.pend := rfl
@[simp] theorem setCmdF_sch (v : Byte) : (setCmdF v s).sch = s.sch := rfl
@[simp] theorem setCmdF_params (v : Byte) : (setCmdF v s).params = s.params := rfl
@[simp] theorem setCmdF_moves (v : Byte) : (setCmdF v s).moves = s.moves := rfl
@[simp] theorem setCmdF_answer (v : Byte) : (setCmdF v s).answer = s.answer := rfl
@[simp] theorem setCmdF_trace (v : Byte) : (setCmdF v s).trace = s.trace := rfl
@[simp] theorem setCmdF_reads (v : Byte) : (setCmdF v s).reads = s.reads := rfl

@[simp] theorem setResult_cmdOp (v : Byte) : (setResult v s).cmdOp = s.cmdOp := rfl
@[simp] theorem setResult_cmdA (v : Byte) : (setResult v s).cmdA = s.cmdA := rfl
@[simp] theorem setResult_cmdB (v : Byte) : (setResult v s).cmdB = s.cmdB := rfl
@[simp] theorem setResult_cmdF (v : Byte) : (setResult v s).cmdF = s.cmdF := rfl
@[simp] theorem setResult_lc (v : Byte) : (setResult v s).lc = s.lc := rfl
@[simp] theorem setResult_result (v : Byte) : (setResult v s).result = v := rfl
@[simp] theorem setResult_nak (v : Byte) : (setResult v s).nak = s.nak := rfl
@[simp] theorem setResult_ovr (v : Byte) : (setResult v s).ovr = s.ovr := rfl
@[simp] theorem setResult_errcode (v : Byte) : (setResult v s).errcode = s.errcode := rfl
@[simp] theorem setResult_twcr (v : Byte) : (setResult v s).twcr = s.twcr := rfl
@[simp] theorem setResult_twdr (v : Byte) : (setResult v s).twdr = s.twdr := rfl
@[simp] theorem setResult_twsrCode (v : Byte) : (setResult v s).twsrCode = s.twsrCode := rfl
@[simp] theorem setResult_twsrPresc (v : Byte) : (setResult v s).twsrPresc = s.twsrPresc := rfl
@[simp] theorem setResult_twbr (v : Byte) : (setResult v s).twbr = s.twbr := rfl
@[simp] theorem setResult_buf (v : Byte) : (setResult v s).buf = s.buf := rfl
@[simp] theorem setResult_bph (v : Byte) : (setResult v s).bph = s.bph := rfl
@[simp] theorem setResult_pend (v : Byte) : (setResult v s).pend = s.pend := rfl
@[simp] theorem setResult_sch (v : Byte) : (setResult v s).sch = s.sch := rfl
@[simp] theorem setResult_params (v : Byte) : (setResult v s).params = s.params := rfl
@[simp] theorem setResult_moves (v : Byte) : (setResult v s).moves = s.moves := rfl
@[simp] theorem setResult_answer (v : Byte) : (setResult v s).answer = s.answer := rfl
@[simp] theorem setResult_trace (v : Byte) : (setResult v s).trace = s.trace := rfl
@[simp] theorem setResult_reads (v : Byte) : (setResult v s).reads = s.reads := rfl

@[simp] theorem setBufAt_cmdOp (i v : Byte) : (setBufAt i v s).cmdOp = s.cmdOp := rfl
@[simp] theorem setBufAt_cmdA (i v : Byte) : (setBufAt i v s).cmdA = s.cmdA := rfl
@[simp] theorem setBufAt_cmdB (i v : Byte) : (setBufAt i v s).cmdB = s.cmdB := rfl
@[simp] theorem setBufAt_cmdF (i v : Byte) : (setBufAt i v s).cmdF = s.cmdF := rfl
@[simp] theorem setBufAt_lc (i v : Byte) : (setBufAt i v s).lc = s.lc := rfl
@[simp] theorem setBufAt_result (i v : Byte) : (setBufAt i v s).result = s.result := rfl
@[simp] theorem setBufAt_nak (i v : Byte) : (setBufAt i v s).nak = s.nak := rfl
@[simp] theorem setBufAt_ovr (i v : Byte) : (setBufAt i v s).ovr = s.ovr := rfl
@[simp] theorem setBufAt_errcode (i v : Byte) : (setBufAt i v s).errcode = s.errcode := rfl
@[simp] theorem setBufAt_twcr (i v : Byte) : (setBufAt i v s).twcr = s.twcr := rfl
@[simp] theorem setBufAt_twdr (i v : Byte) : (setBufAt i v s).twdr = s.twdr := rfl
@[simp] theorem setBufAt_twsrCode (i v : Byte) : (setBufAt i v s).twsrCode = s.twsrCode := rfl
@[simp] theorem setBufAt_twsrPresc (i v : Byte) : (setBufAt i v s).twsrPresc = s.twsrPresc := rfl
@[simp] theorem setBufAt_twbr (i v : Byte) : (setBufAt i v s).twbr = s.twbr := rfl
@[simp] theorem setBufAt_buf (i v : Byte) : (setBufAt i v s).buf = memWrite s.buf i.toNat v := rfl
@[simp] theorem setBufAt_bph (i v : Byte) : (setBufAt i v s).bph = s.bph := rfl
@[simp] theorem setBufAt_pend (i v : Byte) : (setBufAt i v s).pend = s.pend := rfl
@[simp] theorem setBufAt_sch (i v : Byte) : (setBufAt i v s).sch = s.sch := rfl
@[simp] theorem setBufAt_params (i v : Byte) : (setBufAt i v s).params = s.params := rfl
@[simp] theorem setBufAt_moves (i v : Byte) : (setBufAt i v s).moves = s.moves := rfl
@[simp] theorem setBufAt_answer (i v : Byte) : (setBufAt i v s).answer = s.answer := rfl
@[simp] theorem setBufAt_trace (i v : Byte) : (setBufAt i v s).trace = s.trace := rfl
@[simp] theorem setBufAt_reads (i v : Byte) : (setBufAt i v s).reads = s.reads := rfl

@[simp] theorem setOvr_cmdOp : (setOvr s).cmdOp = s.cmdOp := rfl
@[simp] theorem setOvr_cmdA : (setOvr s).cmdA = s.cmdA := rfl
@[simp] theorem setOvr_cmdB : (setOvr s).cmdB = s.cmdB := rfl
@[simp] theorem setOvr_cmdF : (setOvr s).cmdF = s.cmdF := rfl
@[simp] theorem setOvr_lc : (setOvr s).lc = s.lc := rfl
@[simp] theorem setOvr_result : (setOvr s).result = s.result := rfl
@[simp] theorem setOvr_nak : (setOvr s).nak = s.nak := rfl
@[simp] theorem setOvr_ovr : (setOvr s).ovr = true := rfl
@[simp] theorem setOvr_errcode : (setOvr s).errcode = s.errcode := rfl
@[simp] theorem setOvr_twcr : (setOvr s).twcr = s.twcr := rfl
@[simp] theorem setOvr_twdr : (setOvr s).twdr = s.twdr := rfl
@[simp] theorem setOvr_twsrCode : (setOvr s).twsrCode = s.twsrCode := rfl
@[simp] theorem setOvr_twsrPresc : (setOvr s).twsrPresc = s.twsrPresc := rfl
@[simp] theorem setOvr_twbr : (setOvr s).twbr = s.twbr := rfl
@[simp] theorem setOvr_buf : (setOvr s).buf = s.buf := rfl
@[simp] theorem setOvr_bph : (setOvr s).bph = s.bph := rfl
@[simp] theorem setOvr_pend : (setOvr s).pend = s.pend := rfl
@[simp] theorem setOvr_sch : (setOvr s).sch = s.sch := rfl
@[simp] theorem setOvr_params : (setOvr s).params = s.params := rfl
@[simp] theorem setOvr_moves : (setOvr s).moves = s.moves := rfl
@[simp] theorem setOvr_answer : (setOvr s).answer = s.answer := rfl
@[simp] theorem setOvr_trace : (setOvr s).trace = s.trace := rfl
@[simp] theorem setOvr_reads : (setOvr s).reads = s.reads := rfl

@[simp] theorem setSch_cmdOp (c : Sch) : (setSch c s).cmdOp = s.cmdOp := rfl
@[simp] theorem setSch_cmdA (c : Sch) : (setSch c s).cmdA = s.cmdA := rfl
@[simp] theorem setSch_cmdB (c : Sch) : (setSch c s).cmdB = s.cmdB := rfl
@[simp] theorem setSch_cmdF (c : Sch) : (setSch c s).cmdF = s.cmdF := rfl
@[simp] theorem setSch_lc (c : Sch) : (setSch c s).lc = s.lc := rfl
@[simp] theorem setSch_result (c : Sch) : (setSch c s).result = s.result := rfl
@[simp] theorem setSch_nak (c : Sch) : (setSch c s).nak = s.nak := rfl
@[simp] theorem setSch_ovr (c : Sch) : (setSch c s).ovr = s.ovr := rfl
@[simp] theorem setSch_errcode (c : Sch) : (setSch c s).errcode = s.errcode := rfl
@[simp] theorem setSch_twcr (c : Sch) : (setSch c s).twcr = s.twcr := rfl
@[simp] theorem setSch_twdr (c : Sch) : (setSch c s).twdr = s.twdr := rfl
@[simp] theorem setSch_twsrCode (c : Sch) : (setSch c s).twsrCode = s.twsrCode := rfl
@[simp] theorem setSch_twsrPresc (c : Sch) : (setSch c s).twsrPresc = s.twsrPresc := rfl
@[simp] theorem setSch_twbr (c : Sch) : (setSch c s).twbr = s.twbr := rfl
@[simp] theorem setSch_buf (c : Sch) : (setSch c s).buf = s.buf := rfl
@[simp] theorem setSch_bph (c : Sch) : (setSch c s).bph = s.bph := rfl
@[simp] theorem setSch_pend (c : Sch) : (setSch c s).pend = s.pend := rfl
@[simp] theorem setSch_sch (c : Sch) : (setSch c s).sch = c := rfl
@[simp] theorem setSch_params (c : Sch) : (setSch c s).params = s.params := rfl
@[simp] theorem setSch_moves (c : Sch) : (setSch c s).moves = s.moves := rfl
@[simp] theorem setSch_answer (c : Sch) : (setSch c s).answer = s.answer := rfl
@[simp] theorem setSch_trace (c : Sch) : (setSch c s).trace = s.trace := rfl
@[simp] theorem setSch_reads (c : Sch) : (setSch c s).reads = s.reads := rfl

@[simp] theorem initClock_cmdOp (r : Byte) (p : BitVec 3) : (initClock r p s).cmdOp = s.cmdOp := rfl
@[simp] theorem initClock_cmdA (r : Byte) (p : BitVec 3) : (initClock r p s).cmdA = s.cmdA := rfl
@[simp] theorem initClock_cmdB (r : Byte) (p : BitVec 3) : (initClock r p s).cmdB = s.cmdB := rfl
@[simp] theorem initClock_cmdF (r : Byte) (p : BitVec 3) : (initClock r p s).cmdF = s.cmdF := rfl
@[simp] theorem initClock_lc (r : Byte) (p : BitVec 3) : (initClock r p s).lc = s.lc := rfl
@[simp] theorem initClock_result (r : Byte) (p : BitVec 3) : (initClock r p s).result = s.result := rfl
@[simp] theorem initClock_nak (r : Byte) (p : BitVec 3) : (initClock r p s).nak = s.nak := rfl
@[simp] theorem initClock_ovr (r : Byte) (p : BitVec 3) : (initClock r p s).ovr = s.ovr := rfl
@[simp] theorem initClock_errcode (r : Byte) (p : BitVec 3) : (initClock r p s).errcode = s.errcode := rfl
@[simp] theorem initClock_twcr (r : Byte) (p : BitVec 3) : (initClock r p s).twcr = s.twcr := rfl
@[simp] theorem initClock_twdr (r : Byte) (p : BitVec 3) : (initClock r p s).twdr = s.twdr := rfl
@[simp] theorem initClock_twsrCode (r : Byte) (p : BitVec 3) : (initClock r p s).twsrCode = s.twsrCode := rfl
@[simp] theorem initClock_twsrPresc (r : Byte) (p : BitVec 3) : (initClock r p s).twsrPresc = p := rfl
@[simp] theorem initClock_twbr (r : Byte) (p : BitVec 3) : (initClock r p s).twbr = r := rfl
@[simp] theorem initClock_buf (r : Byte) (p : BitVec 3) : (initClock r p s).buf = s.buf := rfl
@[simp] theorem initClock_bph (r : Byte) (p : BitVec 3) : (initClock r p s).bph = s.bph := rfl
@[simp] theorem initClock_pend (r : Byte) (p : BitVec 3) : (initClock r p s).pend = s.pend := rfl
@[simp] theorem initClock_sch (r : Byte) (p : BitVec 3) : (initClock r p s).sch = s.sch := rfl
@[simp] theorem initClock_params (r : Byte) (p : BitVec 3) : (initClock r p s).params = s.params := rfl
@[simp] theorem initClock_moves (r : Byte) (p : BitVec 3) : (initClock r p s).moves = s.moves := rfl
@[simp] theorem initClock_answer (r : Byte) (p : BitVec 3) : (initClock r p s).answer = s.answer := rfl
@[simp] theorem initClock_trace (r : Byte) (p : BitVec 3) : (initClock r p s).trace = s.trace := rfl
@[simp] theorem initClock_reads (r : Byte) (p : BitVec 3) : (initClock r p s).reads = s.reads := rfl

@[simp] theorem issue_cmdOp (p : Prim) : (issue p s).cmdOp = s.cmdOp := rfl
@[simp] theorem issue_cmdA (p : Prim) : (issue p s).cmdA = s.cmdA := rfl
@[simp] theorem issue_cmdB (p : Prim) : (issue p s).cmdB = s.cmdB := rfl
@[simp] theorem issue_cmdF (p : Prim) : (issue p s).cmdF = s.cmdF := rfl
@[simp] theorem issue_lc (p : Prim) : (issue p s).lc = s.lc := rfl
@[simp] theorem issue_result (p : Prim) : (issue p s).result = s.result := rfl
@[simp] theorem issue_nak (p : Prim) : (issue p s).nak = s.nak := rfl
@[simp] theorem issue_ovr (p : Prim) : (issue p s).ovr = s.ovr := rfl
@[simp] theorem issue_errcode (p : Prim) : (issue p s).errcode = s.errcode := rfl
@[simp] theorem issue_twcr (p : Prim) : (issue p s).twcr = twcrIssued (p.busOp s.bph) := rfl
@[simp] theorem issue_twdr (p : Prim) : (issue p s).twdr = twdrIssued (p.busOp s.bph) s.twdr := rfl
@[simp] theorem issue_twsrCode (p : Prim) : (issue p s).twsrCode = Status.noInfo.code s.params.codes := rfl
@[simp] theorem issue_twsrPresc (p : Prim) : (issue p s).twsrPresc = s.twsrPresc := rfl
@[simp] theorem issue_twbr (p : Prim) : (issue p s).twbr = s.twbr := rfl
@[simp] theorem issue_buf (p : Prim) : (issue p s).buf = s.buf := rfl
@[simp] theorem issue_bph (p : Prim) : (issue p s).bph = s.bph := rfl
@[simp] theorem issue_pend (p : Prim) : (issue p s).pend = some (p.busOp s.bph) := rfl
@[simp] theorem issue_sch (p : Prim) : (issue p s).sch = s.sch := rfl
@[simp] theorem issue_params (p : Prim) : (issue p s).params = s.params := rfl
@[simp] theorem issue_moves (p : Prim) : (issue p s).moves = s.moves := rfl
@[simp] theorem issue_answer (p : Prim) : (issue p s).answer = s.answer := rfl
@[simp] theorem issue_trace (p : Prim) : (issue p s).trace = s.trace := rfl
@[simp] theorem issue_reads (p : Prim) : (issue p s).reads = s.reads := rfl

@[simp] theorem completed_cmdOp (q : BusOp) (d : Done) : (completed q d s).cmdOp = s.cmdOp := rfl
@[simp] theorem completed_cmdA (q : BusOp) (d : Done) : (completed q d s).cmdA = s.cmdA := rfl
@[simp] theorem completed_cmdB (q : BusOp) (d : Done) : (completed q d s).cmdB = s.cmdB := rfl
@[simp] theorem completed_cmdF (q : BusOp) (d : Done) : (completed q d s).cmdF = s.cmdF := rfl
@[simp] theorem completed_lc (q : BusOp) (d : Done) : (completed q d s).lc = s.lc := rfl
@[simp] theorem completed_result (q : BusOp) (d : Done) : (completed q d s).result = s.result := rfl
@[simp] theorem completed_nak (q : BusOp) (d : Done) : (completed q d s).nak = s.nak := rfl
@[simp] theorem completed_ovr (q : BusOp) (d : Done) : (completed q d s).ovr = s.ovr := rfl
@[simp] theorem completed_errcode (q : BusOp) (d : Done) : (completed q d s).errcode = s.errcode := rfl
@[simp] theorem completed_twcr (q : BusOp) (d : Done) : (completed q d s).twcr = twcrCompleted q := rfl
@[simp] theorem completed_twdr (q : BusOp) (d : Done) : (completed q d s).twdr = d.twdr := rfl
@[simp] theorem completed_twsrCode (q : BusOp) (d : Done) : (completed q d s).twsrCode = d.status.code s.params.codes := rfl
@[simp] theorem completed_twsrPresc (q : BusOp) (d : Done) : (completed q d s).twsrPresc = s.twsrPresc := rfl
@[simp] theorem completed_twbr (q : BusOp) (d : Done) : (completed q d s).twbr = s.twbr := rfl
@[simp] theorem completed_buf (q : BusOp) (d : Done) : (completed q d s).buf = s.buf := rfl
@[simp] theorem completed_bph (q : BusOp) (d : Done) : (completed q d s).bph = d.bph := rfl
@[simp] theorem completed_pend (q : BusOp) (d : Done) : (completed q d s).pend = none := rfl
@[simp] theorem completed_sch (q : BusOp) (d : Done) : (completed q d s).sch = s.sch := rfl
@[simp] theorem completed_params (q : BusOp) (d : Done) : (completed q d s).params = s.params := rfl
@[simp] theorem completed_moves (q : BusOp) (d : Done) : (completed q d s).moves = s.moves := rfl
@[simp] theorem completed_answer (q : BusOp) (d : Done) : (completed q d s).answer = none := rfl
@[simp] theorem completed_trace (q : BusOp) (d : Done) : (completed q d s).trace = s.trace ++ [d.event] := rfl
@[simp] theorem completed_reads (q : BusOp) (d : Done) : (completed q d s).reads = s.reads := rfl

@[simp] theorem reject_cmdOp (c : ErrCode) : (reject c s).cmdOp = s.cmdOp := rfl
@[simp] theorem reject_cmdA (c : ErrCode) : (reject c s).cmdA = s.cmdA := rfl
@[simp] theorem reject_cmdB (c : ErrCode) : (reject c s).cmdB = s.cmdB := rfl
@[simp] theorem reject_cmdF (c : ErrCode) : (reject c s).cmdF = s.cmdF := rfl
@[simp] theorem reject_lc (c : ErrCode) : (reject c s).lc = s.lc := rfl
@[simp] theorem reject_result (c : ErrCode) : (reject c s).result = s.result := rfl
@[simp] theorem reject_nak (c : ErrCode) : (reject c s).nak = s.nak := rfl
@[simp] theorem reject_ovr (c : ErrCode) : (reject c s).ovr = s.ovr := rfl
@[simp] theorem reject_errcode (c : ErrCode) : (reject c s).errcode = c := rfl
@[simp] theorem reject_twcr (c : ErrCode) : (reject c s).twcr = s.twcr := rfl
@[simp] theorem reject_twdr (c : ErrCode) : (reject c s).twdr = s.twdr := rfl
@[simp] theorem reject_twsrCode (c : ErrCode) : (reject c s).twsrCode = s.twsrCode := rfl
@[simp] theorem reject_twsrPresc (c : ErrCode) : (reject c s).twsrPresc = s.twsrPresc := rfl
@[simp] theorem reject_twbr (c : ErrCode) : (reject c s).twbr = s.twbr := rfl
@[simp] theorem reject_buf (c : ErrCode) : (reject c s).buf = s.buf := rfl
@[simp] theorem reject_bph (c : ErrCode) : (reject c s).bph = s.bph := rfl
@[simp] theorem reject_pend (c : ErrCode) : (reject c s).pend = s.pend := rfl
@[simp] theorem reject_sch (c : ErrCode) : (reject c s).sch = s.sch := rfl
@[simp] theorem reject_params (c : ErrCode) : (reject c s).params = s.params := rfl
@[simp] theorem reject_moves (c : ErrCode) : (reject c s).moves = s.moves := rfl
@[simp] theorem reject_answer (c : ErrCode) : (reject c s).answer = s.answer := rfl
@[simp] theorem reject_trace (c : ErrCode) : (reject c s).trace = s.trace := rfl
@[simp] theorem reject_reads (c : ErrCode) : (reject c s).reads = s.reads := rfl

@[simp] theorem enterFault_cmdOp (c : Status) : (enterFault c s).cmdOp = s.cmdOp := rfl
@[simp] theorem enterFault_cmdA (c : Status) : (enterFault c s).cmdA = s.cmdA := rfl
@[simp] theorem enterFault_cmdB (c : Status) : (enterFault c s).cmdB = s.cmdB := rfl
@[simp] theorem enterFault_cmdF (c : Status) : (enterFault c s).cmdF = s.cmdF := rfl
@[simp] theorem enterFault_lc (c : Status) : (enterFault c s).lc = s.lc := rfl
@[simp] theorem enterFault_result (c : Status) : (enterFault c s).result = s.result := rfl
@[simp] theorem enterFault_nak (c : Status) : (enterFault c s).nak = s.nak := rfl
@[simp] theorem enterFault_ovr (c : Status) : (enterFault c s).ovr = s.ovr := rfl
@[simp] theorem enterFault_errcode (c : Status) : (enterFault c s).errcode = s.errcode := rfl
@[simp] theorem enterFault_twcr (c : Status) : (enterFault c s).twcr = s.twcr ||| twcrInt := rfl
@[simp] theorem enterFault_twdr (c : Status) : (enterFault c s).twdr = s.twdr := rfl
@[simp] theorem enterFault_twsrCode (c : Status) : (enterFault c s).twsrCode = c.code s.params.codes := rfl
@[simp] theorem enterFault_twsrPresc (c : Status) : (enterFault c s).twsrPresc = s.twsrPresc := rfl
@[simp] theorem enterFault_twbr (c : Status) : (enterFault c s).twbr = s.twbr := rfl
@[simp] theorem enterFault_buf (c : Status) : (enterFault c s).buf = s.buf := rfl
@[simp] theorem enterFault_bph (c : Status) : (enterFault c s).bph = s.bph := rfl
@[simp] theorem enterFault_pend (c : Status) : (enterFault c s).pend = none := rfl
@[simp] theorem enterFault_sch (c : Status) : (enterFault c s).sch = .fault := rfl
@[simp] theorem enterFault_params (c : Status) : (enterFault c s).params = s.params := rfl
@[simp] theorem enterFault_moves (c : Status) : (enterFault c s).moves = s.moves := rfl
@[simp] theorem enterFault_answer (c : Status) : (enterFault c s).answer = none := rfl
@[simp] theorem enterFault_trace (c : Status) : (enterFault c s).trace = s.trace ++ [.fault (c.value s.params.codes)] := rfl
@[simp] theorem enterFault_reads (c : Status) : (enterFault c s).reads = s.reads := rfl

@[simp] theorem hostRead_cmdOp (h : HAddr) : (hostRead h s).cmdOp = s.cmdOp := rfl
@[simp] theorem hostRead_cmdA (h : HAddr) : (hostRead h s).cmdA = s.cmdA := rfl
@[simp] theorem hostRead_cmdB (h : HAddr) : (hostRead h s).cmdB = s.cmdB := rfl
@[simp] theorem hostRead_cmdF (h : HAddr) : (hostRead h s).cmdF = s.cmdF := rfl
@[simp] theorem hostRead_lc (h : HAddr) : (hostRead h s).lc = s.lc := rfl
@[simp] theorem hostRead_result (h : HAddr) : (hostRead h s).result = s.result := rfl
@[simp] theorem hostRead_nak (h : HAddr) : (hostRead h s).nak = s.nak := rfl
@[simp] theorem hostRead_ovr (h : HAddr) : (hostRead h s).ovr = s.ovr := rfl
@[simp] theorem hostRead_errcode (h : HAddr) : (hostRead h s).errcode = s.errcode := rfl
@[simp] theorem hostRead_twcr (h : HAddr) : (hostRead h s).twcr = s.twcr := rfl
@[simp] theorem hostRead_twdr (h : HAddr) : (hostRead h s).twdr = s.twdr := rfl
@[simp] theorem hostRead_twsrCode (h : HAddr) : (hostRead h s).twsrCode = s.twsrCode := rfl
@[simp] theorem hostRead_twsrPresc (h : HAddr) : (hostRead h s).twsrPresc = s.twsrPresc := rfl
@[simp] theorem hostRead_twbr (h : HAddr) : (hostRead h s).twbr = s.twbr := rfl
@[simp] theorem hostRead_buf (h : HAddr) : (hostRead h s).buf = s.buf := rfl
@[simp] theorem hostRead_bph (h : HAddr) : (hostRead h s).bph = s.bph := rfl
@[simp] theorem hostRead_pend (h : HAddr) : (hostRead h s).pend = s.pend := rfl
@[simp] theorem hostRead_sch (h : HAddr) : (hostRead h s).sch = s.sch := rfl
@[simp] theorem hostRead_params (h : HAddr) : (hostRead h s).params = s.params := rfl
@[simp] theorem hostRead_moves (h : HAddr) : (hostRead h s).moves = s.moves := rfl
@[simp] theorem hostRead_answer (h : HAddr) : (hostRead h s).answer = s.answer := rfl
@[simp] theorem hostRead_trace (h : HAddr) : (hostRead h s).trace = s.trace := rfl
@[simp] theorem hostRead_reads (h : HAddr) : (hostRead h s).reads = s.reads ++ [(h, hostValue h s)] := rfl

@[simp] theorem writeSstat_cmdOp (v : Byte) : (writeSstat v s).cmdOp = s.cmdOp := rfl
@[simp] theorem writeSstat_cmdA (v : Byte) : (writeSstat v s).cmdA = s.cmdA := rfl
@[simp] theorem writeSstat_cmdB (v : Byte) : (writeSstat v s).cmdB = s.cmdB := rfl
@[simp] theorem writeSstat_cmdF (v : Byte) : (writeSstat v s).cmdF = s.cmdF := rfl
@[simp] theorem writeSstat_lc (v : Byte) : (writeSstat v s).lc = s.lc := rfl
@[simp] theorem writeSstat_result (v : Byte) : (writeSstat v s).result = s.result := rfl
@[simp] theorem writeSstat_nak (v : Byte) : (writeSstat v s).nak = (s.nak && !v.getLsbD 1) := rfl
@[simp] theorem writeSstat_ovr (v : Byte) : (writeSstat v s).ovr = (s.ovr && !v.getLsbD 2) := rfl
@[simp] theorem writeSstat_errcode (v : Byte) : (writeSstat v s).errcode = s.errcode := rfl
@[simp] theorem writeSstat_twcr (v : Byte) : (writeSstat v s).twcr = s.twcr := rfl
@[simp] theorem writeSstat_twdr (v : Byte) : (writeSstat v s).twdr = s.twdr := rfl
@[simp] theorem writeSstat_twsrCode (v : Byte) : (writeSstat v s).twsrCode = s.twsrCode := rfl
@[simp] theorem writeSstat_twsrPresc (v : Byte) : (writeSstat v s).twsrPresc = s.twsrPresc := rfl
@[simp] theorem writeSstat_twbr (v : Byte) : (writeSstat v s).twbr = s.twbr := rfl
@[simp] theorem writeSstat_buf (v : Byte) : (writeSstat v s).buf = s.buf := rfl
@[simp] theorem writeSstat_bph (v : Byte) : (writeSstat v s).bph = s.bph := rfl
@[simp] theorem writeSstat_pend (v : Byte) : (writeSstat v s).pend = s.pend := rfl
@[simp] theorem writeSstat_sch (v : Byte) : (writeSstat v s).sch = s.sch := rfl
@[simp] theorem writeSstat_params (v : Byte) : (writeSstat v s).params = s.params := rfl
@[simp] theorem writeSstat_moves (v : Byte) : (writeSstat v s).moves = s.moves := rfl
@[simp] theorem writeSstat_answer (v : Byte) : (writeSstat v s).answer = s.answer := rfl
@[simp] theorem writeSstat_trace (v : Byte) : (writeSstat v s).trace = s.trace := rfl
@[simp] theorem writeSstat_reads (v : Byte) : (writeSstat v s).reads = s.reads := rfl

@[simp] theorem recordNak_cmdOp (b : Bool) (r : Response) : (recordNak b r s).cmdOp = s.cmdOp := rfl
@[simp] theorem recordNak_cmdA (b : Bool) (r : Response) : (recordNak b r s).cmdA = s.cmdA := rfl
@[simp] theorem recordNak_cmdB (b : Bool) (r : Response) : (recordNak b r s).cmdB = s.cmdB := rfl
@[simp] theorem recordNak_cmdF (b : Bool) (r : Response) : (recordNak b r s).cmdF = s.cmdF := rfl
@[simp] theorem recordNak_lc (b : Bool) (r : Response) : (recordNak b r s).lc = s.lc := rfl
@[simp] theorem recordNak_result (b : Bool) (r : Response) : (recordNak b r s).result = s.result := rfl
@[simp] theorem recordNak_nak (b : Bool) (r : Response) : (recordNak b r s).nak = (s.nak || (b && r == .nack)) := rfl
@[simp] theorem recordNak_ovr (b : Bool) (r : Response) : (recordNak b r s).ovr = s.ovr := rfl
@[simp] theorem recordNak_errcode (b : Bool) (r : Response) : (recordNak b r s).errcode = s.errcode := rfl
@[simp] theorem recordNak_twcr (b : Bool) (r : Response) : (recordNak b r s).twcr = s.twcr := rfl
@[simp] theorem recordNak_twdr (b : Bool) (r : Response) : (recordNak b r s).twdr = s.twdr := rfl
@[simp] theorem recordNak_twsrCode (b : Bool) (r : Response) : (recordNak b r s).twsrCode = s.twsrCode := rfl
@[simp] theorem recordNak_twsrPresc (b : Bool) (r : Response) : (recordNak b r s).twsrPresc = s.twsrPresc := rfl
@[simp] theorem recordNak_twbr (b : Bool) (r : Response) : (recordNak b r s).twbr = s.twbr := rfl
@[simp] theorem recordNak_buf (b : Bool) (r : Response) : (recordNak b r s).buf = s.buf := rfl
@[simp] theorem recordNak_bph (b : Bool) (r : Response) : (recordNak b r s).bph = s.bph := rfl
@[simp] theorem recordNak_pend (b : Bool) (r : Response) : (recordNak b r s).pend = s.pend := rfl
@[simp] theorem recordNak_sch (b : Bool) (r : Response) : (recordNak b r s).sch = s.sch := rfl
@[simp] theorem recordNak_params (b : Bool) (r : Response) : (recordNak b r s).params = s.params := rfl
@[simp] theorem recordNak_moves (b : Bool) (r : Response) : (recordNak b r s).moves = s.moves := rfl
@[simp] theorem recordNak_answer (b : Bool) (r : Response) : (recordNak b r s).answer = s.answer := rfl
@[simp] theorem recordNak_trace (b : Bool) (r : Response) : (recordNak b r s).trace = s.trace := rfl
@[simp] theorem recordNak_reads (b : Bool) (r : Response) : (recordNak b r s).reads = s.reads := rfl

@[simp] theorem goto_cmdOp (op : Op) (l : Label) (i : Byte) : (goto op l i s).cmdOp = s.cmdOp := rfl
@[simp] theorem goto_cmdA (op : Op) (l : Label) (i : Byte) : (goto op l i s).cmdA = s.cmdA := rfl
@[simp] theorem goto_cmdB (op : Op) (l : Label) (i : Byte) : (goto op l i s).cmdB = s.cmdB := rfl
@[simp] theorem goto_cmdF (op : Op) (l : Label) (i : Byte) : (goto op l i s).cmdF = s.cmdF := rfl
@[simp] theorem goto_lc (op : Op) (l : Label) (i : Byte) : (goto op l i s).lc = s.lc := rfl
@[simp] theorem goto_result (op : Op) (l : Label) (i : Byte) : (goto op l i s).result = s.result := rfl
@[simp] theorem goto_nak (op : Op) (l : Label) (i : Byte) : (goto op l i s).nak = s.nak := rfl
@[simp] theorem goto_ovr (op : Op) (l : Label) (i : Byte) : (goto op l i s).ovr = s.ovr := rfl
@[simp] theorem goto_errcode (op : Op) (l : Label) (i : Byte) : (goto op l i s).errcode = s.errcode := rfl
@[simp] theorem goto_twcr (op : Op) (l : Label) (i : Byte) : (goto op l i s).twcr = s.twcr := rfl
@[simp] theorem goto_twdr (op : Op) (l : Label) (i : Byte) : (goto op l i s).twdr = s.twdr := rfl
@[simp] theorem goto_twsrCode (op : Op) (l : Label) (i : Byte) : (goto op l i s).twsrCode = s.twsrCode := rfl
@[simp] theorem goto_twsrPresc (op : Op) (l : Label) (i : Byte) : (goto op l i s).twsrPresc = s.twsrPresc := rfl
@[simp] theorem goto_twbr (op : Op) (l : Label) (i : Byte) : (goto op l i s).twbr = s.twbr := rfl
@[simp] theorem goto_buf (op : Op) (l : Label) (i : Byte) : (goto op l i s).buf = s.buf := rfl
@[simp] theorem goto_bph (op : Op) (l : Label) (i : Byte) : (goto op l i s).bph = s.bph := rfl
@[simp] theorem goto_pend (op : Op) (l : Label) (i : Byte) : (goto op l i s).pend = s.pend := rfl
@[simp] theorem goto_sch (op : Op) (l : Label) (i : Byte) : (goto op l i s).sch = .run op l i := rfl
@[simp] theorem goto_params (op : Op) (l : Label) (i : Byte) : (goto op l i s).params = s.params := rfl
@[simp] theorem goto_moves (op : Op) (l : Label) (i : Byte) : (goto op l i s).moves = s.moves := rfl
@[simp] theorem goto_answer (op : Op) (l : Label) (i : Byte) : (goto op l i s).answer = s.answer := rfl
@[simp] theorem goto_trace (op : Op) (l : Label) (i : Byte) : (goto op l i s).trace = s.trace := rfl
@[simp] theorem goto_reads (op : Op) (l : Label) (i : Byte) : (goto op l i s).reads = s.reads := rfl

@[simp] theorem accept_cmdOp (op : Op) : (accept op s).cmdOp = s.cmdOp := rfl
@[simp] theorem accept_cmdA (op : Op) : (accept op s).cmdA = s.cmdA := rfl
@[simp] theorem accept_cmdB (op : Op) : (accept op s).cmdB = s.cmdB := rfl
@[simp] theorem accept_cmdF (op : Op) : (accept op s).cmdF = s.cmdF := rfl
@[simp] theorem accept_lc (op : Op) : (accept op s).lc = s.cmdWord := rfl
@[simp] theorem accept_result (op : Op) : (accept op s).result = s.result := rfl
@[simp] theorem accept_nak (op : Op) : (accept op s).nak = s.nak := rfl
@[simp] theorem accept_ovr (op : Op) : (accept op s).ovr = s.ovr := rfl
@[simp] theorem accept_errcode (op : Op) : (accept op s).errcode = .none := rfl
@[simp] theorem accept_twcr (op : Op) : (accept op s).twcr = s.twcr := rfl
@[simp] theorem accept_twdr (op : Op) : (accept op s).twdr = s.twdr := rfl
@[simp] theorem accept_twsrCode (op : Op) : (accept op s).twsrCode = s.twsrCode := rfl
@[simp] theorem accept_twsrPresc (op : Op) : (accept op s).twsrPresc = s.twsrPresc := rfl
@[simp] theorem accept_twbr (op : Op) : (accept op s).twbr = s.twbr := rfl
@[simp] theorem accept_buf (op : Op) : (accept op s).buf = s.buf := rfl
@[simp] theorem accept_bph (op : Op) : (accept op s).bph = s.bph := rfl
@[simp] theorem accept_pend (op : Op) : (accept op s).pend = s.pend := rfl
@[simp] theorem accept_sch (op : Op) : (accept op s).sch = .run op (firstLabel op) 0#8 := rfl
@[simp] theorem accept_params (op : Op) : (accept op s).params = s.params := rfl
@[simp] theorem accept_moves (op : Op) : (accept op s).moves = s.moves := rfl
@[simp] theorem accept_answer (op : Op) : (accept op s).answer = s.answer := rfl
@[simp] theorem accept_trace (op : Op) : (accept op s).trace = s.trace := rfl
@[simp] theorem accept_reads (op : Op) : (accept op s).reads = s.reads := rfl

@[simp] theorem storeByte_cmdOp (dest : Dest) (r : Response) : (storeByte dest r s).cmdOp = s.cmdOp := by
  unfold storeByte; split <;> rfl
@[simp] theorem storeByte_cmdA (dest : Dest) (r : Response) : (storeByte dest r s).cmdA = s.cmdA := by
  unfold storeByte; split <;> rfl
@[simp] theorem storeByte_cmdB (dest : Dest) (r : Response) : (storeByte dest r s).cmdB = s.cmdB := by
  unfold storeByte; split <;> rfl
@[simp] theorem storeByte_cmdF (dest : Dest) (r : Response) : (storeByte dest r s).cmdF = s.cmdF := by
  unfold storeByte; split <;> rfl
@[simp] theorem storeByte_lc (dest : Dest) (r : Response) : (storeByte dest r s).lc = s.lc := by
  unfold storeByte; split <;> rfl
@[simp] theorem storeByte_nak (dest : Dest) (r : Response) : (storeByte dest r s).nak = s.nak := by
  unfold storeByte; split <;> rfl
@[simp] theorem storeByte_ovr (dest : Dest) (r : Response) : (storeByte dest r s).ovr = s.ovr := by
  unfold storeByte; split <;> rfl
@[simp] theorem storeByte_errcode (dest : Dest) (r : Response) : (storeByte dest r s).errcode = s.errcode := by
  unfold storeByte; split <;> rfl
@[simp] theorem storeByte_twcr (dest : Dest) (r : Response) : (storeByte dest r s).twcr = s.twcr := by
  unfold storeByte; split <;> rfl
@[simp] theorem storeByte_twdr (dest : Dest) (r : Response) : (storeByte dest r s).twdr = s.twdr := by
  unfold storeByte; split <;> rfl
@[simp] theorem storeByte_twsrCode (dest : Dest) (r : Response) : (storeByte dest r s).twsrCode = s.twsrCode := by
  unfold storeByte; split <;> rfl
@[simp] theorem storeByte_twsrPresc (dest : Dest) (r : Response) : (storeByte dest r s).twsrPresc = s.twsrPresc := by
  unfold storeByte; split <;> rfl
@[simp] theorem storeByte_twbr (dest : Dest) (r : Response) : (storeByte dest r s).twbr = s.twbr := by
  unfold storeByte; split <;> rfl
@[simp] theorem storeByte_bph (dest : Dest) (r : Response) : (storeByte dest r s).bph = s.bph := by
  unfold storeByte; split <;> rfl
@[simp] theorem storeByte_pend (dest : Dest) (r : Response) : (storeByte dest r s).pend = s.pend := by
  unfold storeByte; split <;> rfl
@[simp] theorem storeByte_sch (dest : Dest) (r : Response) : (storeByte dest r s).sch = s.sch := by
  unfold storeByte; split <;> rfl
@[simp] theorem storeByte_params (dest : Dest) (r : Response) : (storeByte dest r s).params = s.params := by
  unfold storeByte; split <;> rfl
@[simp] theorem storeByte_moves (dest : Dest) (r : Response) : (storeByte dest r s).moves = s.moves := by
  unfold storeByte; split <;> rfl
@[simp] theorem storeByte_answer (dest : Dest) (r : Response) : (storeByte dest r s).answer = s.answer := by
  unfold storeByte; split <;> rfl
@[simp] theorem storeByte_trace (dest : Dest) (r : Response) : (storeByte dest r s).trace = s.trace := by
  unfold storeByte; split <;> rfl
@[simp] theorem storeByte_reads (dest : Dest) (r : Response) : (storeByte dest r s).reads = s.reads := by
  unfold storeByte; split <;> rfl

@[simp] theorem hostWrite_lc (h : HAddr) (v : Byte) : (hostWrite h v s).lc = s.lc := by
  unfold hostWrite writeBuf; repeat' split
  all_goals rfl
@[simp] theorem hostWrite_result (h : HAddr) (v : Byte) : (hostWrite h v s).result = s.result := by
  unfold hostWrite writeBuf; repeat' split
  all_goals rfl
@[simp] theorem hostWrite_errcode (h : HAddr) (v : Byte) : (hostWrite h v s).errcode = s.errcode := by
  unfold hostWrite writeBuf; repeat' split
  all_goals rfl
@[simp] theorem hostWrite_twcr (h : HAddr) (v : Byte) : (hostWrite h v s).twcr = s.twcr := by
  unfold hostWrite writeBuf; repeat' split
  all_goals rfl
@[simp] theorem hostWrite_twdr (h : HAddr) (v : Byte) : (hostWrite h v s).twdr = s.twdr := by
  unfold hostWrite writeBuf; repeat' split
  all_goals rfl
@[simp] theorem hostWrite_twsrCode (h : HAddr) (v : Byte) : (hostWrite h v s).twsrCode = s.twsrCode := by
  unfold hostWrite writeBuf; repeat' split
  all_goals rfl
@[simp] theorem hostWrite_twsrPresc (h : HAddr) (v : Byte) : (hostWrite h v s).twsrPresc = s.twsrPresc := by
  unfold hostWrite writeBuf; repeat' split
  all_goals rfl
@[simp] theorem hostWrite_twbr (h : HAddr) (v : Byte) : (hostWrite h v s).twbr = s.twbr := by
  unfold hostWrite writeBuf; repeat' split
  all_goals rfl
@[simp] theorem hostWrite_bph (h : HAddr) (v : Byte) : (hostWrite h v s).bph = s.bph := by
  unfold hostWrite writeBuf; repeat' split
  all_goals rfl
@[simp] theorem hostWrite_pend (h : HAddr) (v : Byte) : (hostWrite h v s).pend = s.pend := by
  unfold hostWrite writeBuf; repeat' split
  all_goals rfl
@[simp] theorem hostWrite_sch (h : HAddr) (v : Byte) : (hostWrite h v s).sch = s.sch := by
  unfold hostWrite writeBuf; repeat' split
  all_goals rfl
@[simp] theorem hostWrite_params (h : HAddr) (v : Byte) : (hostWrite h v s).params = s.params := by
  unfold hostWrite writeBuf; repeat' split
  all_goals rfl
@[simp] theorem hostWrite_moves (h : HAddr) (v : Byte) : (hostWrite h v s).moves = s.moves := by
  unfold hostWrite writeBuf; repeat' split
  all_goals rfl
@[simp] theorem hostWrite_answer (h : HAddr) (v : Byte) : (hostWrite h v s).answer = s.answer := by
  unfold hostWrite writeBuf; repeat' split
  all_goals rfl
@[simp] theorem hostWrite_trace (h : HAddr) (v : Byte) : (hostWrite h v s).trace = s.trace := by
  unfold hostWrite writeBuf; repeat' split
  all_goals rfl
@[simp] theorem hostWrite_reads (h : HAddr) (v : Byte) : (hostWrite h v s).reads = s.reads := by
  unfold hostWrite writeBuf; repeat' split
  all_goals rfl
@[simp] theorem hostWrite_cmdOp (h : HAddr) (v : Byte) : (hostWrite h v s).cmdOp = s.cmdOp := by
  unfold hostWrite writeBuf; repeat' split
  all_goals rfl

@[simp] theorem applyReset_cmdOp (bytes : List Byte) : (applyReset bytes s).cmdOp = 0x00#8 := rfl
@[simp] theorem applyReset_cmdA (bytes : List Byte) : (applyReset bytes s).cmdA = 0x00#8 := rfl
@[simp] theorem applyReset_cmdB (bytes : List Byte) : (applyReset bytes s).cmdB = 0x00#8 := rfl
@[simp] theorem applyReset_cmdF (bytes : List Byte) : (applyReset bytes s).cmdF = 0x00#8 := rfl
@[simp] theorem applyReset_lc (bytes : List Byte) : (applyReset bytes s).lc = 0x00000000#32 := rfl
@[simp] theorem applyReset_result (bytes : List Byte) : (applyReset bytes s).result = 0x00#8 := rfl
@[simp] theorem applyReset_nak (bytes : List Byte) : (applyReset bytes s).nak = false := rfl
@[simp] theorem applyReset_ovr (bytes : List Byte) : (applyReset bytes s).ovr = false := rfl
@[simp] theorem applyReset_errcode (bytes : List Byte) : (applyReset bytes s).errcode = .none := rfl
@[simp] theorem applyReset_twcr (bytes : List Byte) : (applyReset bytes s).twcr = 0x00#8 := rfl
@[simp] theorem applyReset_twdr (bytes : List Byte) : (applyReset bytes s).twdr = 0xFF#8 := rfl
@[simp] theorem applyReset_twsrCode (bytes : List Byte) : (applyReset bytes s).twsrCode = s.params.codes.noInfo := rfl
@[simp] theorem applyReset_twsrPresc (bytes : List Byte) : (applyReset bytes s).twsrPresc = 0#3 := rfl
@[simp] theorem applyReset_twbr (bytes : List Byte) : (applyReset bytes s).twbr = 0x00#8 := rfl
@[simp] theorem applyReset_buf (bytes : List Byte) : (applyReset bytes s).buf = memOfBytes 0 bytes := rfl
@[simp] theorem applyReset_bph (bytes : List Byte) : (applyReset bytes s).bph = .idle := rfl
@[simp] theorem applyReset_pend (bytes : List Byte) : (applyReset bytes s).pend = none := rfl
@[simp] theorem applyReset_sch (bytes : List Byte) : (applyReset bytes s).sch = .idle := rfl
@[simp] theorem applyReset_params (bytes : List Byte) : (applyReset bytes s).params = s.params := rfl
@[simp] theorem applyReset_moves (bytes : List Byte) : (applyReset bytes s).moves = s.moves := rfl
@[simp] theorem applyReset_answer (bytes : List Byte) : (applyReset bytes s).answer = none := rfl
@[simp] theorem applyReset_trace (bytes : List Byte) : (applyReset bytes s).trace = s.trace := rfl
@[simp] theorem applyReset_reads (bytes : List Byte) : (applyReset bytes s).reads = s.reads := rfl

@[simp] theorem resetWith_cmdOp (p : Params) : (State.resetWith p).cmdOp = 0x00#8 := rfl
@[simp] theorem resetWith_cmdA (p : Params) : (State.resetWith p).cmdA = 0x00#8 := rfl
@[simp] theorem resetWith_cmdB (p : Params) : (State.resetWith p).cmdB = 0x00#8 := rfl
@[simp] theorem resetWith_cmdF (p : Params) : (State.resetWith p).cmdF = 0x00#8 := rfl
@[simp] theorem resetWith_lc (p : Params) : (State.resetWith p).lc = 0x00000000#32 := rfl
@[simp] theorem resetWith_result (p : Params) : (State.resetWith p).result = 0x00#8 := rfl
@[simp] theorem resetWith_nak (p : Params) : (State.resetWith p).nak = false := rfl
@[simp] theorem resetWith_ovr (p : Params) : (State.resetWith p).ovr = false := rfl
@[simp] theorem resetWith_errcode (p : Params) : (State.resetWith p).errcode = .none := rfl
@[simp] theorem resetWith_twcr (p : Params) : (State.resetWith p).twcr = 0x00#8 := rfl
@[simp] theorem resetWith_twdr (p : Params) : (State.resetWith p).twdr = 0xFF#8 := rfl
@[simp] theorem resetWith_twsrCode (p : Params) : (State.resetWith p).twsrCode = p.codes.noInfo := rfl
@[simp] theorem resetWith_twsrPresc (p : Params) : (State.resetWith p).twsrPresc = 0#3 := rfl
@[simp] theorem resetWith_twbr (p : Params) : (State.resetWith p).twbr = 0x00#8 := rfl
@[simp] theorem resetWith_buf (p : Params) : (State.resetWith p).buf = [] := rfl
@[simp] theorem resetWith_bph (p : Params) : (State.resetWith p).bph = .idle := rfl
@[simp] theorem resetWith_pend (p : Params) : (State.resetWith p).pend = none := rfl
@[simp] theorem resetWith_sch (p : Params) : (State.resetWith p).sch = .idle := rfl
@[simp] theorem resetWith_params (p : Params) : (State.resetWith p).params = p := rfl
@[simp] theorem resetWith_moves (p : Params) : (State.resetWith p).moves = [] := rfl
@[simp] theorem resetWith_answer (p : Params) : (State.resetWith p).answer = none := rfl
@[simp] theorem resetWith_trace (p : Params) : (State.resetWith p).trace = [] := rfl
@[simp] theorem resetWith_reads (p : Params) : (State.resetWith p).reads = [] := rfl

end Sys2Proof.Machine

namespace Sys2Proof

@[simp] theorem Status.code_start (t : StatusCodes) : Status.start.code t = t.start := rfl
@[simp] theorem Status.code_repStart (t : StatusCodes) : Status.repStart.code t = t.repStart := rfl
@[simp] theorem Status.code_slaWAck (t : StatusCodes) : Status.slaWAck.code t = t.slaWAck := rfl
@[simp] theorem Status.code_slaWNack (t : StatusCodes) : Status.slaWNack.code t = t.slaWNack := rfl
@[simp] theorem Status.code_dataTxAck (t : StatusCodes) : Status.dataTxAck.code t = t.dataTxAck := rfl
@[simp] theorem Status.code_dataTxNack (t : StatusCodes) : Status.dataTxNack.code t = t.dataTxNack := rfl
@[simp] theorem Status.code_arbLost (t : StatusCodes) : Status.arbLost.code t = t.arbLost := rfl
@[simp] theorem Status.code_slaRAck (t : StatusCodes) : Status.slaRAck.code t = t.slaRAck := rfl
@[simp] theorem Status.code_slaRNack (t : StatusCodes) : Status.slaRNack.code t = t.slaRNack := rfl
@[simp] theorem Status.code_dataRxAck (t : StatusCodes) : Status.dataRxAck.code t = t.dataRxAck := rfl
@[simp] theorem Status.code_dataRxNack (t : StatusCodes) : Status.dataRxNack.code t = t.dataRxNack := rfl
@[simp] theorem Status.code_noInfo (t : StatusCodes) : Status.noInfo.code t = t.noInfo := rfl
@[simp] theorem Status.code_busError (t : StatusCodes) : Status.busError.code t = t.busError := rfl

end Sys2Proof
end

