-- ==== Sys2Proof/Laws/Ops.lean ====
section
/-! SUPPORT. One lemma for each shared operation that says once everything it can do; later proofs cite these and do not unfold the operations. -/

namespace Sys2Proof

theorem Status.mem_all (c : Status) : c ∈ Status.all := by cases c <;> decide

/-- In a table whose values are distinct a code has one status (R35, D8). -/
theorem Distinct.code_inj {t : StatusCodes} (h : Distinct t) {c d : Status} (e : c.code t = d.code t) : c = d :=
  List.inj_on_of_nodup_map h c.mem_all d.mem_all e

/-- The value of a status code is read off TWSR through the mask (R35, R108). -/
@[simp] theorem Status.value_masked (c : Status) (t : StatusCodes) (p : BitVec 3) :
    ((c.code t ++ p : BitVec 8) &&& Machine.statusMask) = c.value t := by
  unfold Status.value Machine.statusMask
  generalize c.code t = x
  revert x p
  decide

end Sys2Proof

namespace Sys2Proof.Machine

/-- Every arm of exec is the command over its step table. -/
theorem exec_eq (c : Instr) (s : State) : exec c s = command c (tableOf c) s := by
  cases c <;> rfl

theorem exec_idle {c : Instr} {s : State} (h : s.sch = .idle) : exec c s = .next (launch c s) := by
  rw [exec_eq]; unfold command; rw [h]

theorem exec_fault {c : Instr} {s : State} (h : s.sch = .fault) : exec c s = .next s := by
  rw [exec_eq]; unfold command; rw [h]

theorem exec_run {c : Instr} {s : State} {l : Label} {i : Byte} (h : s.sch = .run c.op l i) :
    exec c s = tableStep c.op i (tableOf c s l i) s := by
  rw [exec_eq]; unfold command; rw [h]; simp

/-- A launch is accepted, or rejected with LEN_ZERO or SEQUENCE. -/
theorem launch_cases (c : Instr) (s : State) :
    (lengthZero c = true ∧ launch c s = reject .lenZero s) ∨
    (lengthZero c = false ∧ legalPhase c.op s.bph = false ∧ launch c s = reject .sequence s) ∨
    (lengthZero c = false ∧ legalPhase c.op s.bph = true ∧ launch c s = accept c.op s) := by
  unfold launch launchError
  cases hz : lengthZero c <;> cases hp : legalPhase c.op s.bph <;> simp

/-- The BLOCK step of a label. -/
theorem tableStep_block {op : Op} {i : Byte} {a : Action} {s : State} (hp : s.pend = none) (ha : s.answer = none) :
    tableStep op i (some a) s = .next (blockAction op i a s) := by
  unfold tableStep; rw [hp, ha]

/-- The ENV step of an issue label. -/
theorem tableStep_env {op : Op} {i : Byte} {p : Prim} {after : After} {q : BusOp} {r : Response} {s : State}
    (hp : s.pend = some q) (ha : s.answer = some r) :
    tableStep op i (some (.issue p after)) s = .next (envAction op after q r s) := by
  unfold tableStep; rw [hp, ha]

/-- A block that waits takes no step (R42). -/
theorem tableStep_waits {op : Op} {i : Byte} {a : Action} {q : BusOp} {s : State} (hp : s.pend = some q)
    (ha : s.answer = none) : tableStep op i (some a) s = .next s := by
  unfold tableStep; rw [hp, ha]

/-- Everything a step of a step table can do. -/
theorem tableStep_cases {op : Op} {i : Byte} {act : Option Action} {s t : State}
    (h : tableStep op i act s = .next t) :
    (∃ a, act = some a ∧ s.pend = none ∧ s.answer = none ∧ t = blockAction op i a s) ∨
    (s.pend = none ∧ s.answer ≠ none ∧ t = dropAnswer s) ∨
    (s.pend ≠ none ∧ s.answer = none ∧ t = s) ∨
    (∃ p after q r, act = some (.issue p after) ∧ s.pend = some q ∧ s.answer = some r ∧ t = envAction op after q r s) := by
  unfold tableStep at h
  cases act with
  | none => simp at h
  | some a =>
    cases hp : s.pend with
    | none =>
      cases ha : s.answer with
      | none => exact .inl ⟨a, rfl, rfl, rfl, by simpa [hp, ha] using h.symm⟩
      | some r => exact .inr (.inl ⟨rfl, by simp, by simpa [hp, ha] using h.symm⟩)
    | some q =>
      cases ha : s.answer with
      | none => exact .inr (.inr (.inl ⟨by simp, rfl, by simpa [hp, ha] using h.symm⟩))
      | some r =>
        cases a with
        | issue p after => exact .inr (.inr (.inr ⟨p, after, q, r, rfl, rfl, rfl, by simpa [hp, ha] using h.symm⟩))
        | _ => simp [hp, ha] at h

/-- Everything an ENV step can do: complete, enter FAULT, or drop a response outside the set. -/
theorem envAction_cases (op : Op) (after : After) (q : BusOp) (r : Response) (s : State) :
    (∃ d, answered q r s.bph s.twdr = .completes d ∧
      envAction op after q r s =
        goto op after.next after.i (storeByte after.dest r (recordNak after.nak r (completed q d s)))) ∨
    (∃ c, answered q r s.bph s.twdr = .faults c ∧ envAction op after q r s = enterFault c s) ∨
    (answered q r s.bph s.twdr = .notAResponse ∧ envAction op after q r s = dropAnswer s) := by
  unfold envAction
  cases h : answered q r s.bph s.twdr <;> simp

/-- The ENV step that completes the operation in flight. -/
theorem envAction_completes {op : Op} {after : After} {q : BusOp} {r : Response} {s : State} {d : Done}
    (h : answered q r s.bph s.twdr = .completes d) :
    envAction op after q r s =
      goto op after.next after.i (storeByte after.dest r (recordNak after.nak r (completed q d s))) := by
  unfold envAction; rw [h]

/-- The ENV step that reports a bus fault. -/
theorem envAction_faults {op : Op} {after : After} {q : BusOp} {r : Response} {s : State} {c : Status}
    (h : answered q r s.bph s.twdr = .faults c) : envAction op after q r s = enterFault c s := by
  unfold envAction; rw [h]

/-- A stored byte changes RESULT or BUF alone. -/
theorem storeByte_cases (dest : Dest) (r : Response) (s : State) :
    storeByte dest r s = s ∨ (∃ v, dest = .result ∧ r = .data v ∧ storeByte dest r s = setResult v s) ∨
    (∃ i v, dest = .buf i ∧ r = .data v ∧ storeByte dest r s = setBufAt i v s) := by
  unfold storeByte
  cases dest <;> cases r <;> simp

/-- Everything one step can do: nothing with no move left, else the step of the agent the first move names. -/
theorem step_cons {s : State} {m : Move} {rest : List Move} (h : s.moves = m :: rest) :
    step s = moveStep m (withMoves rest s) := by
  unfold step; rw [h]

theorem step_nil {s : State} (h : s.moves = []) : step s = .next s := by
  unfold step; rw [h]

theorem busy_eq_false_iff (s : State) : s.busy = false ↔ s.sch = .idle := by
  unfold State.busy; cases s.sch <;> simp

theorem flt_eq_true_iff (s : State) : s.flt = true ↔ s.sch = .fault := by
  unfold State.flt; cases s.sch <;> simp

/-- The step of the running command is exec of the command LC holds. -/
theorem runningStep_run {s : State} {op : Op} {l : Label} {i : Byte} {c : Instr} (hs : s.sch = .run op l i)
    (hc : decode s.lc = .command c) : runningStep s = exec c s := by
  unfold runningStep; rw [hs, hc]

theorem envStep_run {s : State} {op : Op} {l : Label} {i : Byte} {q : BusOp} {c : Instr} (r : Response)
    (hs : s.sch = .run op l i) (hp : s.pend = some q) (hc : decode s.lc = .command c) :
    envStep r s = exec c (answering r s) := by
  have h : envStep r s = runningStep (answering r s) := by
    unfold envStep
    split
    · rfl
    · next hn => exact (hn _ _ _ _ hs hp).elim
  rw [h]
  exact runningStep_run (s := answering r s) hs hc

/-- A launching write is decoded and launched, or rejected (R84). -/
theorem hostWriteStep_launch {s : State} (v : Byte) (h : s.sch = .idle) :
    hostWriteStep 0x000#9 v s = launchWrite v s := by
  unfold hostWriteStep; simp [(busy_eq_false_iff s).mpr h]

theorem hostWriteStep_other {h : HAddr} (v : Byte) {s : State} (hn : h ≠ 0x000#9 ∨ s.sch ≠ .idle) :
    hostWriteStep h v s = .next (hostWrite h v s) := by
  unfold hostWriteStep
  rw [if_neg]
  rintro ⟨h0, hb⟩
  exact hn.elim (fun h' => h' h0) fun h' => h' ((busy_eq_false_iff s).mp hb)

/-- A host write that launches nothing touches the staging registers, NAK, OVR and BUF alone. -/
theorem hostWrite_cases (h : HAddr) (v : Byte) (s : State) :
    hostWrite h v s = s ∨ hostWrite h v s = setOvr s ∨ hostWrite h v s = setCmdA v s ∨
    hostWrite h v s = setCmdB v s ∨ hostWrite h v s = setCmdF v s ∨
    hostWrite h v s = writeSstat v s ∨
    (s.busy = false ∧ ∃ i : Byte, hostWrite h v s = setBufAt i v s) := by
  unfold hostWrite writeBuf
  split
  · cases hb : s.busy with
    | false => exact .inr (.inr (.inr (.inr (.inr (.inr ⟨rfl, _, rfl⟩)))))
    | true => exact .inr (.inl rfl)
  · split <;> simp

end Sys2Proof.Machine
end

