-- ==== Sys2Proof/Laws/Tables.lean ====
section
/-! SUPPORT. The step tables: what they read of the state, which labels have which kind of action, and what Inv reads. -/

namespace Sys2Proof.Machine

/-- A step table reads BUF and the parameters alone. -/
theorem tableOf_congr (c : Instr) {s t : State} (hb : t.buf = s.buf) (hp : t.params = s.params) : tableOf c t = tableOf c s := by
  have h : ∀ i, t.bufAt i = s.bufAt i := fun i => by unfold State.bufAt; rw [hb]
  have hw : sendSlaW t = sendSlaW s := by unfold sendSlaW; rw [hp]
  have hr : sendSlaR t = sendSlaR s := by unfold sendSlaR; rw [hp]
  have hpoll : pollTable t = pollTable s := by funext l i; unfold pollTable; rw [hw]
  cases c <;> try rfl
  all_goals
    funext l i
    simp only [tableOf, tableEWrbyte, tableERdbyte, tableEWrpage, tableERdseq, tableEWaitrdy, hw, hr, hpoll, h]

/-- Whether a command has a label does not depend on the state or the index. -/
theorem hasLabel_indep (c : Instr) (s t : State) (l : Label) (i j : Byte) : (tableOf c s l i).isSome = (tableOf c t l j).isSome := by
  cases c <;> cases l <;> rfl

/-- What a running command's part of Inv reads. -/
theorem Running.congr {s t : State} {op l i c} (h : Running s op l i c) (hbuf : t.buf = s.buf) (hpar : t.params = s.params)
   (hlc : t.lc = s.lc) (hbph : t.bph = s.bph) (hpend : t.pend = s.pend) (htwcr : t.twcr = s.twcr) (hcode : t.twsrCode = s.twsrCode)
   (htwdr : t.twdr = s.twdr) : Running t op l i c where
  latched := by rw [hlc]; exact h.latched
  opOf := h.opOf
  accepted := h.accepted
  hasLabel := by rw [tableOf_congr c hbuf hpar]; exact h.hasLabel
  phase := by rw [hbph]; exact h.phase
  index := h.index
  flight := by unfold inFlight; rw [hpend, htwcr, hcode, htwdr, hbph, hpar, tableOf_congr c hbuf hpar]; exact h.flight
  status := by have := h.status; unfold statusAt at this ⊢; rw [hcode, hbph, hpar]; exact this

/-- What Inv reads: every other field may change freely. -/
theorem Inv.congr {s t : State} (h : Inv s) (hbuf : t.buf = s.buf) (hpar : t.params = s.params)
   (hlc : t.lc = s.lc) (hbph : t.bph = s.bph) (hpend : t.pend = s.pend) (htwcr : t.twcr = s.twcr) (hcode : t.twsrCode = s.twsrCode)
   (htwdr : t.twdr = s.twdr) (hans : t.answer = s.answer) (hsch : t.sch = s.sch) : Inv t where
  bufWf := by rw [hbuf]; exact h.bufWf
  answered := by rw [hans]; exact h.answered
  hardwired := by rw [htwcr]; exact h.hardwired
  codes := by rw [hpar]; exact h.codes
  sch := by
    have := h.sch
    unfold schOk at this ⊢
    rw [hsch]
    cases hs : s.sch with
    | idle => rw [hs] at this; simp only at this ⊢; rw [hpend]; exact this
    | fault => rw [hs] at this; simp only at this ⊢; rw [hpend]; exact this
    | run op l i =>
      rw [hs] at this
      obtain ⟨c, hc⟩ := this
      exact ⟨c, hc.congr hbuf hpar hlc hbph hpend htwcr hcode htwdr⟩

/-- TWCR's hardwired bits are zero after every issue and completion (R32, R33). -/
theorem twcrIssued_hard (q : BusOp) : twcrIssued q &&& 0x0B#8 = 0#8 := by
  cases q with
  | read k => cases k <;> decide
  | _ => simp [twcrIssued]
theorem twcrCompleted_hard (q : BusOp) : twcrCompleted q &&& 0x0B#8 = 0#8 := by
  cases q with
  | read k => cases k <;> decide
  | _ => simp [twcrCompleted]
theorem twdrIssued_idem (q : BusOp) (b : Byte) : twdrIssued q (twdrIssued q b) = twdrIssued q b := by
  cases q <;> rfl


/-- A label whose action issues is neither W2 nor END. -/
theorem issue_label {c : Instr} {s : State} {l : Label} {i : Byte} {p : Prim} {after : After}
    (h : tableOf c s l i = some (.issue p after)) : l ≠ .w2 ∧ l ≠ .fin := by
  constructor <;> rintro rfl <;> cases c <;> simp [tableOf, tablePStatus, tablePStart, tablePStop, tablePTxaddr, tablePTxbyte, tablePRxbyte, tablePInit,primitiveTable,
    tableEWrbyte, tableERdbyte, tableEWrpage, tableERdseq, tableEWaitrdy, pollTable] at h

/-- µSTATUS is {CODE, 000} (R108). -/
theorem status_eq (s : State) : s.status = s.twsrCode ++ 0#3 := by
  unfold State.status State.twsr statusMask
  generalize s.twsrCode = a
  generalize s.twsrPresc = b
  revert a b
  decide +kernel

theorem enterFault_hard (c : Status) (s : State) (h : s.twcr &&& 0x0B#8 = 0#8) : (enterFault c s).twcr &&& 0x0B#8 = 0#8 := by
  simp only [enterFault_twcr, twcrInt]
  generalize s.twcr = x at h
  revert x
  decide +kernel

end Sys2Proof.Machine
end

