-- ==== Sys2Proof/Laws/Run.lean ====
section
/-! SUPPORT. Runs of the machine, one move a step: a bus operation of a running command is a BLOCK move and an ENV move (40_bus_primitives.md R100). -/

namespace Sys2Proof.Machine

/-- The state after a whole bus operation of the running command: issued, answered, its completion action done. -/
def opDone (c : Instr) (p : Prim) (after : After) (r : Response) (d : Done) (s : State) : State :=
  goto c.op after.next after.i
    (storeByte after.dest r (recordNak after.nak r (completed (p.busOp s.bph) d (issue p s))))

theorem run_zero (s : State) : core.run 0 s = .next s := rfl

theorem coreRun_succ (M : Host.Core) (k : Nat) {s t : M.State} (h : M.step s = .next t) :
    M.run (k + 1) s = M.run k t := by
  simp only [Host.Core.run, h]

/-- A run in two parts. -/
theorem coreRun_add (M : Host.Core) : ∀ (j k : Nat) {s t : M.State}, M.run j s = .next t → M.run (j + k) s = M.run k t
  | 0, k, s, t, h => by
    have h' : s = t := by simpa [Host.Core.run] using h
    rw [Nat.zero_add, h']
  | j + 1, k, s, t, h => by
    rw [show j + 1 + k = (j + k) + 1 by omega]
    cases hs : M.step s with
    | next u =>
      rw [coreRun_succ M j hs] at h
      rw [coreRun_succ M (j + k) hs]
      exact coreRun_add M j k h
    | fault f => simp only [Host.Core.run, hs] at h; exact absurd h (by simp)
    | refused f => simp only [Host.Core.run, hs] at h; exact absurd h (by simp)

/-- One move of a run. -/
theorem run_cons {s t : State} {m : Move} {rest : List Move} (k : Nat) (hm : s.moves = m :: rest)
    (h : moveStep m (withMoves rest s) = .next t) : core.run (k + 1) s = core.run k t :=
  coreRun_succ core k ((step_cons hm).trans h)

/-- A BLOCK move of the running command. -/
theorem run_block {s t : State} {rest : List Move} {c : Instr} {l : Label} {i : Byte} (k : Nat)
    (hm : s.moves = .block :: rest) (hs : s.sch = .run c.op l i) (hc : decode s.lc = .command c)
    (h : exec c (withMoves rest s) = .next t) : core.run (k + 1) s = core.run k t :=
  run_cons k hm (by rw [← h]; exact runningStep_run (s := withMoves rest s) hs hc)

/-- An ENV move of the running command. -/
theorem run_env {s t : State} {rest : List Move} {c : Instr} {l : Label} {i : Byte} {q : BusOp} {r : Response} (k : Nat)
    (hm : s.moves = .env r :: rest) (hs : s.sch = .run c.op l i) (hp : s.pend = some q) (hc : decode s.lc = .command c)
    (h : exec c (answering r (withMoves rest s)) = .next t) : core.run (k + 1) s = core.run k t :=
  run_cons k hm (by rw [← h]; exact envStep_run (s := withMoves rest s) r hs hp hc)

/-- The label END of the running command. -/
theorem run_finish {s : State} {rest : List Move} {c : Instr} {l : Label} {i : Byte} (k : Nat)
    (hm : s.moves = .block :: rest) (hs : s.sch = .run c.op l i) (hp : s.pend = none) (ha : s.answer = none)
    (hc : decode s.lc = .command c) (ht : ∀ u, tableOf c u l i = some .finish) :
    core.run (k + 1) s = core.run k (setSch .idle (withMoves rest s)) := by
  refine run_block k hm hs hc ?_
  rw [exec_run (s := withMoves rest s) hs, ht, tableStep_block (by exact hp) (by exact ha)]
  rfl

/-- A whole bus operation of the running command: two moves. -/
theorem run_op {s : State} {rest : List Move} {c : Instr} {l : Label} {i : Byte} {p : Prim} {after : After}
    {r : Response} {d : Done} (k : Nat) (hm : s.moves = .block :: .env r :: rest) (hs : s.sch = .run c.op l i)
    (hp : s.pend = none) (ha : s.answer = none) (hc : decode s.lc = .command c)
    (ht : tableOf c s l i = some (.issue p after))
    (hd : answered (p.busOp s.bph) r s.bph (twdrIssued (p.busOp s.bph) s.twdr) = .completes d) :
    core.run (k + 2) s = core.run k (opDone c p after r d (withMoves rest s)) := by
  have h1 : core.run (k + 2) s = core.run (k + 1) (issue p (withMoves (.env r :: rest) s)) := by
    refine run_block (k + 1) hm hs hc ?_
    rw [exec_run (s := withMoves (.env r :: rest) s) hs,
      tableOf_congr c (s := s) (t := withMoves (.env r :: rest) s) rfl rfl, ht,
      tableStep_block (by exact hp) (by exact ha)]
    rfl
  rw [h1]
  refine run_env k (c := c) (l := l) (i := i) (q := p.busOp s.bph) (r := r) (rest := rest) rfl hs rfl hc ?_
  rw [exec_run (s := answering r (withMoves rest (issue p (withMoves (.env r :: rest) s)))) hs,
    tableOf_congr c (s := s) (t := answering r (withMoves rest (issue p (withMoves (.env r :: rest) s)))) rfl rfl, ht,
    tableStep_env (q := p.busOp s.bph) (r := r) rfl rfl]
  rw [envAction_completes (d := d) (by exact hd)]
  rfl

end Sys2Proof.Machine
end

