-- ==== Sys2Proof/Laws/Step.lean ====
section
/-! SUPPORT. Everything a step can do from a state that meets Inv, said once: a step inversion that later proofs case on (40_bus_primitives.md R100). -/

namespace Sys2Proof.Machine

/-- The internal labels (R110, R116, R133): which command has them, and where. -/
theorem readStatus_label {c : Instr} {s : State} {l : Label} {i : Byte}
    (h : tableOf c s l i = some .readStatus) : c = .pStatus ∧ l = .s0 := by
  cases c <;> cases l <;> simp [tableOf, tablePStatus, tablePStart, tablePStop, tablePTxaddr, tablePTxbyte, tablePRxbyte,
    tablePInit, primitiveTable, tableEWrbyte, tableERdbyte, tableEWrpage, tableERdseq, tableEWaitrdy, pollTable] at h ⊢

theorem init_label {c : Instr} {s : State} {l : Label} {i : Byte} {r : Byte} {p : BitVec 3}
    (h : tableOf c s l i = some (.init r p)) : c = .pInit r p ∧ l = .s0 := by
  cases c <;> cases l <;> simp [tableOf, tablePStatus, tablePStart, tablePStop, tablePTxaddr, tablePTxbyte, tablePRxbyte,
    tablePInit, primitiveTable, tableEWrbyte, tableERdbyte, tableEWrpage, tableERdseq, tableEWaitrdy, pollTable] at h ⊢
  exact h

theorem pollCheck_label {c : Instr} {s : State} {l : Label} {i : Byte} (h : tableOf c s l i = some .pollCheck) :
    (c = .eWaitrdy ∨ (∃ a, c = .eWrpage a) ∨ ∃ a d, c = .eWrbyte a d) ∧ l = .w2 := by
  cases c <;> cases l <;> simp [tableOf, tablePStatus, tablePStart, tablePStop, tablePTxaddr, tablePTxbyte, tablePRxbyte,
    tablePInit, primitiveTable, tableEWrbyte, tableERdbyte, tableEWrpage, tableERdseq, tableEWaitrdy, pollTable] at h ⊢

theorem finish_label {c : Instr} {s : State} {l : Label} {i : Byte} (h : tableOf c s l i = some .finish) : l = .fin := by
  cases c <;> cases l <;> simp [tableOf, tablePStatus, tablePStart, tablePStop, tablePTxaddr, tablePTxbyte, tablePRxbyte,
    tablePInit, primitiveTable, tableEWrbyte, tableERdbyte, tableEWrpage, tableERdseq, tableEWaitrdy, pollTable] at h ⊢

/-- Only P.RXBYTE's S0 and E.RDBYTE's B5 put a received byte in RESULT (R115, R135). -/
theorem result_label {c : Instr} {s : State} {l : Label} {i : Byte} {p : Prim} {after : After}
    (ha : tableOf c s l i = some (.issue p after)) (h : after.dest = .result) :
    (c.op = .pRxbyte ∧ l = .s0) ∨ (c.op = .eRdbyte ∧ l = .b5) := by
  cases c <;> cases l <;> simp [tableOf, tablePStatus, tablePStart, tablePStop, tablePTxaddr, tablePTxbyte, tablePRxbyte,
    tablePInit, primitiveTable, tableEWrbyte, tableERdbyte, tableEWrpage, tableERdseq, tableEWaitrdy, pollTable, andThen,
    nakThen, keepThen, toEnd] at ha <;> (obtain ⟨rfl, rfl⟩ := ha)
  all_goals first
    | (simp [Instr.op]; done)
    | ((repeat' split at h) <;> simp at h)

/-- Only E.RDSEQ's B5 and B6 put a received byte in BUF (R137). -/
theorem buf_label {c : Instr} {s : State} {l : Label} {i j : Byte} {p : Prim} {after : After}
    (ha : tableOf c s l i = some (.issue p after)) (h : after.dest = .buf j) :
    ∃ a n, c = .eRdseq a n ∧ ((l = .b5 ∧ j = i) ∨ (l = .b6 ∧ j = n - 1#8)) := by
  cases c <;> cases l <;> simp [tableOf, tablePStatus, tablePStart, tablePStop, tablePTxaddr, tablePTxbyte, tablePRxbyte,
    tablePInit, primitiveTable, tableEWrbyte, tableERdbyte, tableEWrpage, tableERdseq, tableEWaitrdy, pollTable, andThen,
    nakThen, keepThen, toEnd] at ha <;> (obtain ⟨rfl, rfl⟩ := ha)
  case eRdseq.b5 => exact ⟨_, _, rfl, .inl ⟨rfl, by simpa using h.symm⟩⟩
  case eRdseq.b6 => exact ⟨_, _, rfl, .inr ⟨rfl, by simpa using h.symm⟩⟩
  case eWrpage.b3 => split at h <;> simp at h
  all_goals simp at h

/-- RESULT after a store of a received byte. -/
theorem storeByte_result (dest : Dest) (r : Response) (s : State) :
    (storeByte dest r s).result = s.result ∨
    ∃ v, dest = .result ∧ r = .data v ∧ (storeByte dest r s).result = v := by
  rcases storeByte_cases dest r s with e | ⟨v, hd, hr, e⟩ | ⟨i, v, _, _, e⟩ <;> rw [e]
  · exact .inl rfl
  · exact .inr ⟨v, hd, hr, rfl⟩
  · exact .inl rfl

/-- BUF after a store of a received byte. -/
theorem storeByte_buf (dest : Dest) (r : Response) (s : State) :
    (storeByte dest r s).buf = s.buf ∨
    ∃ i v, dest = .buf i ∧ r = .data v ∧ (storeByte dest r s).buf = memWrite s.buf i.toNat v := by
  rcases storeByte_cases dest r s with e | ⟨v, hd, hr, e⟩ | ⟨i, v, hd, hr, e⟩ <;> rw [e]
  · exact .inl rfl
  · exact .inl rfl
  · exact .inr ⟨i, v, hd, hr, rfl⟩

theorem wf_storeByte {dest : Dest} {r : Response} {s : State} (h : Memory.wf s.buf = true) :
    Memory.wf (storeByte dest r s).buf = true := by
  rcases storeByte_cases dest r s with e | ⟨v, _, _, e⟩ | ⟨i, v, _, _, e⟩ <;> rw [e]
  · exact h
  · exact h
  · exact wf_memWrite _ _ h

/-- Everything exec can do when it answers a next state, Inv or no Inv: a launch accepted or rejected, nothing in
S_FAULT, a BLOCK step, a response dropped, a wait, an ENV step. -/
theorem exec_cases {c : Instr} {s t : State} (h : exec c s = .next t) :
    (s.sch = .idle ∧ ((∃ code, t = reject code s) ∨ t = accept c.op s)) ∨
    (s.sch = .fault ∧ t = s) ∨
    (∃ l i, s.sch = .run c.op l i ∧
      ((∃ a, tableOf c s l i = some a ∧ s.pend = none ∧ s.answer = none ∧ t = blockAction c.op i a s) ∨
       (s.pend = none ∧ s.answer ≠ none ∧ t = dropAnswer s) ∨
       (s.pend ≠ none ∧ s.answer = none ∧ t = s) ∨
       (∃ p after q r, tableOf c s l i = some (.issue p after) ∧ s.pend = some q ∧ s.answer = some r ∧
         t = envAction c.op after q r s))) := by
  cases hs : s.sch with
  | idle =>
    rw [exec_idle hs] at h
    injection h with h
    rcases launch_cases c s with ⟨_, e⟩ | ⟨_, _, e⟩ | ⟨_, _, e⟩ <;> rw [e] at h
    · exact .inl ⟨rfl, .inl ⟨_, h.symm⟩⟩
    · exact .inl ⟨rfl, .inl ⟨_, h.symm⟩⟩
    · exact .inl ⟨rfl, .inr h.symm⟩
  | fault =>
    rw [exec_fault hs] at h
    injection h with h
    exact .inr (.inl ⟨rfl, h.symm⟩)
  | run op l i =>
    by_cases ho : op = c.op
    · subst ho
      rw [exec_run hs] at h
      rcases tableStep_cases h with ⟨a, ha, hp, hans, e⟩ | h | h | h
      · exact .inr (.inr ⟨l, i, rfl, .inl ⟨a, ha, hp, hans, e⟩⟩)
      · exact .inr (.inr ⟨l, i, rfl, .inr (.inl h)⟩)
      · exact .inr (.inr ⟨l, i, rfl, .inr (.inr (.inl h))⟩)
      · exact .inr (.inr ⟨l, i, rfl, .inr (.inr (.inr h))⟩)
    · rw [exec_eq] at h
      unfold command at h
      rw [hs] at h
      simp [ho] at h

/-- What an ENV step leaves of RESULT, BUF, NAK and the clock. -/
theorem envAction_result {op : Op} {after : After} {q : BusOp} {r : Response} {s : State}
    (h : after.dest ≠ .result ∨ ∀ v, r ≠ .data v) : (envAction op after q r s).result = s.result := by
  rcases envAction_cases op after q r s with ⟨d, hd, e⟩ | ⟨f, hf, e⟩ | ⟨hn, e⟩ <;> rw [e] <;> simp
  rcases storeByte_result after.dest r (recordNak after.nak r (completed q d s)) with e | ⟨v, hdst, hv, _⟩
  · simp [e]
  · exact (h.elim (fun h => h hdst) fun h => h v hv).elim

theorem envAction_buf {op : Op} {after : After} {q : BusOp} {r : Response} {s : State}
    (h : ∀ j, after.dest ≠ .buf j) : (envAction op after q r s).buf = s.buf := by
  rcases envAction_cases op after q r s with ⟨d, hd, e⟩ | ⟨f, hf, e⟩ | ⟨hn, e⟩ <;> rw [e] <;> simp
  rcases storeByte_buf after.dest r (recordNak after.nak r (completed q d s)) with e | ⟨j, v, hd, _⟩
  · simp [e]
  · exact absurd hd (h j)

theorem envAction_nak {op : Op} {after : After} {q : BusOp} {r : Response} {s : State} (h : after.nak = false) :
    (envAction op after q r s).nak = s.nak := by
  rcases envAction_cases op after q r s with ⟨d, hd, e⟩ | ⟨f, hf, e⟩ | ⟨hn, e⟩ <;> rw [e] <;> simp [h]

theorem envAction_clock {op : Op} {after : After} {q : BusOp} {r : Response} {s : State} :
    (envAction op after q r s).twbr = s.twbr ∧ (envAction op after q r s).twsrPresc = s.twsrPresc := by
  rcases envAction_cases op after q r s with ⟨d, hd, e⟩ | ⟨f, hf, e⟩ | ⟨hn, e⟩ <;> rw [e] <;> simp

/-- With an operation in flight, its command stands at the label that issued it. -/
theorem inFlight_label {s : State} (hI : Inv s) {q : BusOp} (hp : s.pend = some q) :
    ∃ l i c p after, s.sch = .run c.op l i ∧ Running s c.op l i c ∧ tableOf c s l i = some (.issue p after) ∧
      q = p.busOp s.bph ∧ s.twdr = twdrIssued q s.twdr := by
  have hk := hI.sch
  unfold schOk at hk
  cases hs : s.sch with
  | idle => rw [hs] at hk; simp only at hk; rw [hk] at hp; cases hp
  | fault => rw [hs] at hk; simp only at hk; rw [hk] at hp; cases hp
  | run op l i =>
    rw [hs] at hk
    obtain ⟨c, hc⟩ := hk
    obtain rfl := hc.opOf
    have hf := hc.flight
    unfold inFlight at hf
    rw [hp] at hf
    simp only at hf
    split at hf
    · next p after ha => exact ⟨l, i, c, p, after, rfl, hc, ha, hf.1, hf.2.2.2.symm⟩
    · exact hf.elim

/-- One step from `s` by move `m`, `u` being `s` without that move: what `m` can be and what the step then is. -/
inductive StepCase (s : State) (m : Move) (u : State) : State → Prop where
  | reads (a : HAddr) (hm : m = .hostRead a) : StepCase s m u (hostRead a u)
  | writes (a : HAddr) (v : Byte) (hm : m = .hostWrite a v) (hn : a ≠ 0x000#9 ∨ s.sch ≠ .idle) :
      StepCase s m u (hostWrite a v u)
  | rejects (v : Byte) (code : ErrCode) (hm : m = .hostWrite 0x000#9 v) (hs : s.sch = .idle) (hc : code ≠ .none) :
      StepCase s m u (reject code (setCmdOp v u))
  | accepts (v : Byte) (c : Instr) (hm : m = .hostWrite 0x000#9 v) (hs : s.sch = .idle)
      (hd : decode (cmdWordOf v s.cmdA s.cmdB s.cmdF) = .command c) (hz : lengthZero c = false)
      (hl : legalPhase c.op s.bph = true) : StepCase s m u (accept c.op (setCmdOp v u))
  | rests (hs : s.sch = .idle ∨ s.sch = .fault) (hm : m = .block ∨ ∃ r, m = .env r) : StepCase s m u u
  | waits (q : BusOp) (hp : s.pend = some q) (hm : m = .block) : StepCase s m u u
  | unasked (r : Response) (hp : s.pend = none) (hm : m = .env r) : StepCase s m u u
  | blocks (l : Label) (i : Byte) (c : Instr) (a : Action) (hm : m = .block) (hp : s.pend = none)
      (hs : s.sch = .run c.op l i) (hr : Running s c.op l i c) (ha : tableOf c s l i = some a) :
      StepCase s m u (blockAction c.op i a u)
  | completes (l : Label) (i : Byte) (c : Instr) (p : Prim) (after : After) (r : Response) (d : Done) (hm : m = .env r)
      (hp : s.pend = some (p.busOp s.bph)) (hs : s.sch = .run c.op l i) (hr : Running s c.op l i c)
      (ha : tableOf c s l i = some (.issue p after)) (hw : s.twdr = twdrIssued (p.busOp s.bph) s.twdr)
      (hd : answered (p.busOp s.bph) r s.bph s.twdr = .completes d) :
      StepCase s m u
        (goto c.op after.next after.i (storeByte after.dest r (recordNak after.nak r (completed (p.busOp s.bph) d u))))
  | faults (l : Label) (i : Byte) (c : Instr) (p : Prim) (after : After) (r : Response) (f : Status) (hm : m = .env r)
      (hp : s.pend = some (p.busOp s.bph)) (hs : s.sch = .run c.op l i) (hr : Running s c.op l i c)
      (ha : tableOf c s l i = some (.issue p after))
      (hf : answered (p.busOp s.bph) r s.bph s.twdr = .faults f) : StepCase s m u (enterFault f u)
  | ignores (q : BusOp) (r : Response) (hm : m = .env r) (hp : s.pend = some q)
      (hn : answered q r s.bph s.twdr = .notAResponse) : StepCase s m u u
  | resets (bytes : List Byte) (hm : m = .rst bytes) : StepCase s m u (applyReset bytes u)

/-- The step inversion. -/
theorem step_cases {s t : State} (hI : Inv s) {m : Move} {rest : List Move} (hm : s.moves = m :: rest)
    (h : step s = .next t) : StepCase s m (withMoves rest s) t := by
  rw [step_cons hm] at h
  cases m with
  | hostRead a => injection h with h; exact h ▸ .reads a rfl
  | hostWrite a v =>
    change hostWriteStep a v _ = _ at h
    by_cases hc : a = 0x000#9 ∧ s.sch = .idle
    · obtain ⟨rfl, hs⟩ := hc
      rw [hostWriteStep_launch v (s := withMoves rest s) hs] at h
      unfold launchWrite at h
      split at h
      · next c hd =>
        rw [exec_idle (s := setCmdOp v (withMoves rest s)) hs] at h
        injection h with h
        subst h
        rcases launch_cases c (setCmdOp v (withMoves rest s)) with ⟨_, e⟩ | ⟨_, _, e⟩ | ⟨hz, hl, e⟩ <;> rw [e]
        · exact .rejects v .lenZero rfl hs (by simp)
        · exact .rejects v .sequence rfl hs (by simp)
        · exact .accepts v c rfl hs hd hz hl
      · injection h with h; exact h ▸ .rejects v .illegalOp rfl hs (by simp)
      · injection h with h; exact h ▸ .rejects v .reservedField rfl hs (by simp)
    · have hn : a ≠ 0x000#9 ∨ s.sch ≠ .idle := by
        by_cases h0 : a = 0x000#9
        · exact .inr fun hs => hc ⟨h0, hs⟩
        · exact .inl h0
      rw [hostWriteStep_other v (s := withMoves rest s) hn] at h
      injection h with h
      exact h ▸ .writes a v rfl hn
  | block =>
    change runningStep _ = _ at h
    have hk := hI.sch
    unfold schOk at hk
    cases hs : s.sch with
    | idle => simp [runningStep, hs] at h; exact h ▸ .rests (.inl hs) (.inl rfl)
    | fault => simp [runningStep, hs] at h; exact h ▸ .rests (.inr hs) (.inl rfl)
    | run op l i =>
      rw [hs] at hk
      obtain ⟨c, hc⟩ := hk
      obtain rfl := hc.opOf
      obtain ⟨a, ha⟩ := Option.isSome_iff_exists.mp hc.hasLabel
      rw [runningStep_run (s := withMoves rest s) hs hc.latched, exec_run (s := withMoves rest s) hs,
        tableOf_congr c (s := s) (t := withMoves rest s) rfl rfl, ha] at h
      cases hp : s.pend with
      | none =>
        rw [tableStep_block (s := withMoves rest s) hp hI.answered] at h
        injection h with h
        exact h ▸ .blocks l i c a rfl hp hs hc ha
      | some q =>
        rw [tableStep_waits (s := withMoves rest s) hp hI.answered] at h
        injection h with h
        exact h ▸ .waits q hp rfl
  | env r =>
    change envStep _ _ = _ at h
    cases hp : s.pend with
    | none =>
      have he : envStep r (withMoves rest s) = .next (withMoves rest s) := by unfold envStep; simp [hp]
      rw [he] at h
      injection h with h
      exact h ▸ .unasked r hp rfl
    | some q =>
      obtain ⟨l, i, c, p, after, hs, hc, ha, rfl, hw⟩ := inFlight_label hI hp
      rw [envStep_run (s := withMoves rest s) r hs hp hc.latched, exec_run (s := answering r (withMoves rest s)) hs,
        tableOf_congr c (s := s) (t := answering r (withMoves rest s)) rfl rfl, ha,
        tableStep_env (s := answering r (withMoves rest s)) (q := p.busOp s.bph) (r := r) hp rfl] at h
      injection h with h
      subst h
      rcases envAction_cases c.op after (p.busOp s.bph) r (answering r (withMoves rest s)) with
        ⟨d, hd, e⟩ | ⟨f, hf, e⟩ | ⟨hn, e⟩ <;> rw [e]
      · exact .completes l i c p after r d rfl hp hs hc ha hw hd
      · exact .faults l i c p after r f rfl hp hs hc ha hf
      · have hu : dropAnswer (answering r (withMoves rest s)) = withMoves rest s := by
          unfold dropAnswer answering withMoves
          rw [← hI.answered]
        rw [hu]
        exact .ignores _ r rfl hp hn
  | rst bytes => injection h with h; exact h ▸ .resets bytes rfl

end Sys2Proof.Machine
end

