-- ==== Sys2Proof/Laws/Bench.lean ====
section
/-! SUPPORT. One step of the test bench, and a bench run in parts (95_test_vectors.md, 20_memory.md R66 to R71). -/

namespace Sys2Proof.Machine

/-- A bench run whose first step is known. -/
theorem benchRun_succ {b b' : Bench} (k : Nat) (h : b.step = .next b') : Bench.run (k + 1) b = Bench.run k b' := by
  simp only [Bench.run, h]

/-- A bench run in two parts. -/
theorem benchRun_add : ∀ (j k : Nat) {b b' : Bench}, Bench.run j b = .next b' → Bench.run (j + k) b = Bench.run k b'
  | 0, k, b, b', h => by
    have h' : b = b' := by simpa [Bench.run] using h
    rw [Nat.zero_add, h']
  | j + 1, k, b, b', h => by
    rw [show j + 1 + k = (j + k) + 1 by omega]
    cases hs : b.step with
    | next u =>
      rw [benchRun_succ j hs] at h
      rw [benchRun_succ (j + k) hs]
      exact benchRun_add j k h
    | fault f => simp only [Bench.run, hs] at h; exact absurd h (by simp)
    | refused f => simp only [Bench.run, hs] at h; exact absurd h (by simp)

/-- The block's move on the bench is a step of the machine. -/
theorem benchMove_next {b : Bench} {m : Move} {dev : RefDev} {program : List HostOp} {t : State}
    (h : moveStep m (withMoves [] b.block) = .next t) : b.move m dev program = .next ⟨t, dev, program⟩ := by
  unfold Bench.move
  rw [step_cons (s := withMoves [m] b.block) rfl]
  have e : withMoves [] (withMoves [m] b.block) = withMoves [] b.block := rfl
  rw [e, h]

/-- At S_IDLE the host acts. -/
theorem benchStep_idle {b : Bench} (h : b.block.sch = .idle) : b.step = b.hostStep := by
  unfold Bench.step
  rw [h]

/-- A running command with nothing in flight takes its BLOCK step. -/
theorem benchStep_block {b : Bench} {op : Op} {l : Label} {i : Byte} (hs : b.block.sch = .run op l i)
    (hp : b.block.pend = none) : b.step = b.move .block b.dev b.program := by
  unfold Bench.step
  rw [hs, hp]

/-- An operation in flight is answered by the device. -/
theorem benchStep_env {b : Bench} {op : Op} {l : Label} {i : Byte} {q : BusOp} (hs : b.block.sch = .run op l i)
    (hp : b.block.pend = some q) :
    b.step = b.move (.env (b.dev.respond q).1) (b.dev.respond q).2 b.program := by
  unfold Bench.step
  rw [hs, hp]

/-- A committed page byte, whatever was pending at other addresses (R71). -/
theorem memRead_applyWrites_last {hi lo : Nat} : ∀ (pw : List (Byte × Byte)) {m : List Host.Cell} (a v : Byte),
    memWfFrom hi lo (applyWrites pw m) = true → memRead (applyWrites (pw ++ [(a, v)]) m) a.toNat = v := by
  intro pw m a v h
  unfold applyWrites at h ⊢
  rw [List.foldl_append]
  exact memRead_memWrite_same _ _ h

end Sys2Proof.Machine
end

