-- ==== Sys2Proof/Laws/PerInstr.lean ====
section
/-! SUPPORT. What holds of every command as syntax, one lemma per constructor: its word lies in its own row of the opcode map and in no other (30_encoding.md R83, R86). -/

namespace Sys2Proof.Laws.EncodingRow

/-- The word of a command matches a row of the opcode map exactly when the row is the command's own. -/
def Statement (i : Instr) : Prop := ∀ r ∈ opcodeMap, (encode i &&& r.mask = r.pattern ↔ r.op = i.op)

/-- The rows as operand-byte masks. -/
theorem row_masks : ∀ r ∈ opcodeMap, r.mask = cmdWordOf 0xFF#8 (maskA r.op) (maskB r.op) (maskF r.op) ∧
    r.pattern = cmdWordOf r.op.byte 0#8 0#8 0#8 := by decide

theorem byte_inj {a b : Op} (h : a.byte = b.byte) : a = b := by
  revert h
  cases a <;> cases b <;> decide

/-- It is enough that the operand bytes keep the must-be-zero bits of the command's row at 0. -/
theorem of_operandBytes {i : Instr} (hA : i.operandBytes.1 &&& maskA i.op = 0#8)
    (hB : i.operandBytes.2.1 &&& maskB i.op = 0#8) (hF : i.operandBytes.2.2 &&& maskF i.op = 0#8) : Statement i := by
  intro r hr
  obtain ⟨hm, hp⟩ := row_masks r hr
  have e0 : ∀ p : Byte, p &&& 0xFF#8 = p := by decide +kernel
  rw [hm, hp]
  unfold encode
  rw [and_cmdWordOf, cmdWordOf_inj, e0]
  constructor
  · exact fun h => (byte_inj h.1).symm
  · intro h
    rw [h]
    exact ⟨rfl, hA, hB, hF⟩

theorem low_bit (b : Bool) : (0#7 ++ BitVec.ofBool b : Byte) &&& 0xFE#8 = 0#8 := by
  cases b <;> decide

theorem and_zero (p : Byte) : p &&& 0#8 = 0#8 := by simp

theorem zero_and (m : Byte) : 0#8 &&& m = 0#8 := by simp

theorem pStatus : Statement .pStatus := of_operandBytes (zero_and _) (zero_and _) (zero_and _)

theorem pStart : Statement .pStart := of_operandBytes (zero_and _) (zero_and _) (zero_and _)

theorem pStop : Statement .pStop := of_operandBytes (zero_and _) (zero_and _) (zero_and _)

theorem pTxaddr (sla : BitVec 7) (dir : Dir) : Statement (.pTxaddr sla dir) :=
  of_operandBytes (and_zero _) (zero_and _) (low_bit _)

theorem pTxbyte (data : Byte) : Statement (.pTxbyte data) := of_operandBytes (and_zero _) (zero_and _) (zero_and _)

theorem pRxbyte (ack : Bool) : Statement (.pRxbyte ack) := of_operandBytes (zero_and _) (zero_and _) (low_bit _)

theorem pInit (bitrate : Byte) (presc : BitVec 3) : Statement (.pInit bitrate presc) := by
  refine of_operandBytes (and_zero _) ?_ (zero_and _)
  show (0#5 ++ presc : Byte) &&& 0xF8#8 = 0#8
  revert presc
  decide

theorem eWrbyte (maddr data : Byte) : Statement (.eWrbyte maddr data) := of_operandBytes (and_zero _) (and_zero _) (zero_and _)

theorem eRdbyte (maddr : Byte) : Statement (.eRdbyte maddr) := of_operandBytes (and_zero _) (zero_and _) (zero_and _)

theorem eWrpage (maddr : Byte) : Statement (.eWrpage maddr) := of_operandBytes (and_zero _) (zero_and _) (zero_and _)

theorem eRdseq (maddr n : Byte) : Statement (.eRdseq maddr n) := of_operandBytes (and_zero _) (and_zero _) (zero_and _)

theorem eWaitrdy : Statement .eWaitrdy := of_operandBytes (zero_and _) (zero_and _) (zero_and _)

end Sys2Proof.Laws.EncodingRow
end

