-- ==== Sys2Proof/Tests/Slice0.lean ====
section
/-! SUPPORT. The model's own tests: words and values from 30_encoding.md and 95_test_vectors.md, and for every statement with hypotheses a state that meets them. -/

open Sys2Proof Sys2Proof.Machine Sys2Proof.Claim

namespace Sys2Proof.Tests

/-! ### Well-formed terms -/

/-- R94: E.RDSEQ of length 0 is refused, and of lengths 1 and 255 is not. -/
theorem test_wellFormed_refuses_length_zero : (Instr.eRdseq 0x10#8 0#8).wellFormed = false := by decide

theorem test_wellFormed_length_bounds :
    (Instr.eRdseq 0x10#8 1#8).wellFormed = true ∧ (Instr.eRdseq 0x10#8 255#8).wellFormed = true := by decide

/-! ### Decoding: the words of opcode_table.json, bit by bit, with the operand bits filled in -/

theorem test_decode_pStatus : decode 0b00000001000000000000000000000000#32 = .command .pStatus := by decide

theorem test_decode_pStart : decode 0b00000010000000000000000000000000#32 = .command .pStart := by decide

theorem test_decode_pStop : decode 0b00000011000000000000000000000000#32 = .command .pStop := by decide

theorem test_decode_pTxaddr :
    decode 0b00000100101000010000000000000000#32 = .command (.pTxaddr 0b1010000#7 .w) ∧
    decode 0b00000100101000000000000000000001#32 = .command (.pTxaddr 0b1010000#7 .r) := by decide

theorem test_decode_pTxbyte :
    decode 0b00000101100000010000000000000000#32 = .command (.pTxbyte 0b10000001#8) := by decide

theorem test_decode_pRxbyte :
    decode 0b00000110000000000000000000000000#32 = .command (.pRxbyte false) ∧
    decode 0b00000110000000000000000000000001#32 = .command (.pRxbyte true) := by decide

theorem test_decode_pInit :
    decode 0b00000111010010000000010100000000#32 = .command (.pInit 0b01001000#8 0b101#3) := by decide

theorem test_decode_eWrbyte :
    decode 0b00010000000100000100010100000000#32 = .command (.eWrbyte 0b00010000#8 0b01000101#8) := by decide

theorem test_decode_eRdbyte :
    decode 0b00010001000100000000000000000000#32 = .command (.eRdbyte 0b00010000#8) := by decide

theorem test_decode_eWrpage :
    decode 0b00010010111110010000000000000000#32 = .command (.eWrpage 0b11111001#8) := by decide

theorem test_decode_eRdseq :
    decode 0b00010011000100000000011100000000#32 = .command (.eRdseq 0b00010000#8 0b00000111#8) := by decide

theorem test_decode_eWaitrdy : decode 0b00010100000000000000000000000000#32 = .command .eWaitrdy := by decide

/-- 95_test_vectors.md 2.1: the ILLEGAL_OP rows. -/
theorem test_illegal_words :
    [0x00000000#32, 0x08000000#32, 0x0F123456#32, 0x15000000#32, 0xFF000000#32].map decode =
      List.replicate 5 .illegalOp := by decide

/-- 95_test_vectors.md 2.1: the RESERVED_FIELD rows. -/
theorem test_reserved_words :
    [0x01000001#32, 0x01800000#32, 0x04A00002#32, 0x04A00100#32, 0x05000001#32, 0x06010000#32, 0x07000800#32,
      0x10000001#32, 0x11200100#32, 0x13100001#32, 0x14010000#32].map decode =
      List.replicate 11 .reservedField := by decide

/-- 95_test_vectors.md 2.1: 0x13100000 decodes, and its launch is rejected with LEN_ZERO. -/
theorem test_table_words : decodeTableWord 32 0x13100000 = some (.eRdseq 0x10#8 0#8) ∧
    decodeTableWord 32 0x15000000 = none := by decide

/-- Words assembled in 95_test_vectors.md sections 1 and 3, with a character operand, a decimal operand, a
pseudo-instruction, a comment and a refused length. -/
theorem test_assemble :
    Asm.assemble "E.WRBYTE 0x11, 'l'   ; second byte" = some 0x10116C00#32 ∧
    Asm.assemble "P.INIT 72, 0" = some 0x07480000#32 ∧ Asm.assemble "P.SLAR 0xA0" = some 0x04A00001#32 ∧
    Asm.assemble "E.RDSEQ 0x10, 7" = some 0x13100700#32 ∧ Asm.assemble "E.RDSEQ 0x10, 0" = none := by decide +kernel

/-- 95_test_vectors.md 2.1: disassembly. -/
theorem test_disassemble :
    Asm.disassemble 0x04A10001#32 = "P.TXADDR 0xA0, R" ∧ Asm.disassemble 0x07FF0700#32 = "P.INIT 255, 7" ∧
    Asm.disassemble 0x08000000#32 = ".illegal 0x08000000" ∧
    Asm.disassemble 0x01000001#32 = ".reserved 0x01000001" := by decide +kernel

/-! ### Small states -/

/-- Command `c` at label `l`, nothing in flight, the rest as after reset. -/
def runAt (c : Instr) (l : Label) (i : Byte) (bph : Phase) : State :=
  { State.reset with lc := encode c, sch := .run c.op l i, bph := bph }

/-- The same with a primitive issued. -/
def issuedAt (c : Instr) (l : Label) (i : Byte) (bph : Phase) (p : Prim) : State := issue p (runAt c l i bph)

/-- A state with one move to make. -/
def about (m : Move) (s : State) : State := withMoves [m] s

/-- What one step leaves of the fields `f` reads. -/
def seen {α : Type} (f : State → α) (s : State) : Option α :=
  match step s with
  | .next t => some (f t)
  | .fault _ => none
  | .refused _ => none

/-! ### One step of each command: 95_test_vectors.md 2.3 to 2.5 -/

theorem test_pStatus_masks : seen State.result
    (about .block { runAt .pStatus .s0 0#8 .mt with twsrCode := 3#5, twsrPresc := 4#3 }) = some 0x18#8 := by decide

theorem test_pStart_issue : seen (fun s => (s.twcr, s.twsr, s.pend)) (about .block (runAt .pStart .s0 0#8 .mt)) =
    some (0x24#8, 0xF8#8, some (.start true)) := by decide

theorem test_pStart_ok : seen (fun s => (s.twcr, s.twsr, s.bph))
    (about (.env .ok) { issuedAt .pStart .s0 0#8 .idle .start with twsrPresc := 5#3 }) =
    some (0xA4#8, 0x0D#8, .addr) := by decide

theorem test_pStart_arbLost : seen (fun s => (s.twcr, s.twsr, s.sstat, s.trace))
    (about (.env .arbLost) (issuedAt .pStart .s0 0#8 .idle .start)) =
    some (0xA4#8, 0x38#8, 0x09#8, [.fault 0x38#8]) := by decide

theorem test_pStop_ok : seen (fun s => (s.twcr, s.twsr, s.bph)) (about (.env .ok) (issuedAt .pStop .s0 0#8 .mt .stop)) =
    some (0x04#8, 0xF8#8, .idle) := by decide

theorem test_pTxaddr_issue : seen (fun s => (s.twcr, s.twdr))
    (about .block (runAt (.pTxaddr 0x50#7 .r) .s0 0#8 .addr)) = some (0x04#8, 0xA1#8) := by decide

theorem test_pTxaddr_nack : seen (fun s => (s.twcr, s.twsr, s.bph, s.nak))
    (about (.env .nack) (issuedAt (.pTxaddr 0x50#7 .w) .s0 0#8 .addr (.txaddr 0x50#7 .w))) =
    some (0x84#8, 0x20#8, .mtNak, false) := by decide

theorem test_pTxbyte_nack : seen (fun s => (s.twsr, s.bph, s.trace))
    (about (.env .nack) (issuedAt (.pTxbyte 0x10#8) .s0 0#8 .mt (.txbyte 0x10#8))) =
    some (0x30#8, .mt, [.write 0x10#8 false]) := by decide

theorem test_pRxbyte_ack : seen (fun s => (s.twcr, s.twdr, s.twsr, s.result))
    (about (.env (.data 0x45#8)) (issuedAt (.pRxbyte true) .s0 0#8 .mr (.rxbyte true))) =
    some (0xC4#8, 0x45#8, 0x50#8, 0x45#8) := by decide

theorem test_pInit : seen (fun s => (s.twbr, s.twsr)) (about .block (runAt (.pInit 0xFF#8 7#3) .s0 0#8 .idle)) =
    some (0xFF#8, 0xFF#8) := by decide

theorem test_eWrbyte_sends_data : seen State.pend (about .block (runAt (.eWrbyte 0x10#8 0x45#8) .b3 0#8 .mt)) =
    some (some (.write 0x45#8 .data)) := by decide

theorem test_eWrbyte_nack_is_recorded : seen (fun s => (s.nak, s.sch))
    (about (.env .nack) (issuedAt (.eWrbyte 0x10#8 0x45#8) .b1 0#8 .addr (.txaddr 0x50#7 .w))) =
    some (true, .run .eWrbyte .b2 0#8) := by decide

theorem test_eRdbyte_result : seen (fun s => (s.result, s.sch))
    (about (.env (.data 0x45#8)) (issuedAt (.eRdbyte 0x10#8) .b5 0#8 .mr (.rxbyte false))) =
    some (0x45#8, .run .eRdbyte .b6 0#8) := by decide

theorem test_eWrpage_rounds : seen State.pend (about .block (runAt (.eWrpage 0xFA#8) .b2 0#8 .mt)) =
    some (some (.write 0x00#8 .data)) := by decide

theorem test_eWrpage_reads_buf_late : seen State.pend
    (about .block { runAt (.eWrpage 0x10#8) .b3 7#8 .mt with buf := [(0, 0xB0#8), (7, 0xB7#8)] }) =
    some (some (.write 0xB7#8 .data)) := by decide

theorem test_eRdseq_last_of_one : seen State.sch
    (about (.env .ack) (issuedAt (.eRdseq 0xFF#8 1#8) .b4 0#8 .addr (.txaddr 0x50#7 .r))) =
    some (.run .eRdseq .b6 0#8) := by decide

theorem test_eRdseq_stores_last : seen (fun s => (s.buf, s.sch))
    (about (.env (.data 0x44#8)) (issuedAt (.eRdseq 0x00#8 255#8) .b6 254#8 .mr (.rxbyte false))) =
    some ([(254, 0x44#8)], .run .eRdseq .b7 254#8) := by decide

theorem test_eWaitrdy_nack_polls_again : seen State.sch
    (about .block { runAt .eWaitrdy .w2 0#8 .mtNak with twsrCode := 4#5 }) = some (.run .eWaitrdy .w0 0#8) := by
  decide

theorem test_eWaitrdy_ack_stops : seen (fun s => (s.sch, s.nak))
    (about .block { runAt .eWaitrdy .w2 0#8 .mt with twsrCode := 3#5, twsrPresc := 4#3 }) =
    some (.run .eWaitrdy .w3 0#8, false) := by decide

/-! ### Launch, host accesses, reset, operands -/

/-- 95_test_vectors.md 2.1: LEN_ZERO is checked before SEQUENCE. -/
theorem test_launch_len_zero_first : seen (fun s => (s.sstat, s.cmdOp))
    (about (.hostWrite 0x000#9 0x13#8) { State.reset with cmdA := 0x10#8, bph := .mt }) = some (0x30#8, 0x13#8) := by
  decide

/-- 95_test_vectors.md 2.1: a launch while busy is dropped, and SSTAT reads 0x05. -/
theorem test_launch_while_busy : seen (fun s => (s.sstat, s.cmdOp))
    (about (.hostWrite 0x000#9 0x11#8) (issuedAt .pStart .s0 0#8 .idle .start)) = some (0x05#8, 0x00#8) := by
  decide

/-- The host's check: a staged word runs as the next step. -/
theorem test_withFetchWord : seen State.sch (State.reset.withFetchWord 32 0x13100700) =
    some (.run .eRdseq .b0 0#8) := by decide

/-- 95_test_vectors.md 2.2: only bits 1 and 2 of a write of SSTAT act. -/
theorem test_sstat_write : seen State.sstat
    (about (.hostWrite 0x005#9 0xFF#8) { State.reset with nak := true, ovr := true, errcode := .reservedField }) =
    some 0x20#8 := by decide

/-- 95_test_vectors.md 2.2: BUF[255] at 0x1FF, and the drop while busy. -/
theorem test_buf_write : seen (fun s => hostValue 0x1FF#9 s) (about (.hostWrite 0x1FF#9 0x5A#8) State.reset) = some 0x5A#8 ∧
    seen (fun s => (hostValue 0x103#9 s, s.ovr))
      (about (.hostWrite 0x103#9 0x99#8) { runAt .pStart .s0 0#8 .idle with buf := [(3, 0x11#8)] }) =
      some (0x11#8, true) := by decide

/-- 10_state.md R35: the default values, in the order of its table. -/
theorem test_default_codes : Status.all.map (fun c => c.value Config.defaultCodes) =
    [0x08#8, 0x10#8, 0x18#8, 0x20#8, 0x28#8, 0x30#8, 0x38#8, 0x40#8, 0x48#8, 0x50#8, 0x58#8, 0xF8#8, 0x00#8] := by decide

/-- 93_implementation_defined.md U19: a block whose STATUS_CODE has START = 0x68 shows that value in TWSR. -/
theorem test_other_codes : seen State.twsr
    (about (.env .ok) (issue .start
      { runAt .pStart .s0 0#8 .idle with params := ⟨{ Config.defaultCodes with start := Config.upper 0x68#8 }, 0x50#7⟩ })) =
    some 0x68#8 := by decide

/-- 95_test_vectors.md 2.8. -/
theorem test_reset_reads : (List.range 10).map (fun h => hostValue (BitVec.ofNat 9 h) State.reset) =
    [0x00#8, 0x00#8, 0x00#8, 0x00#8, 0x00#8, 0x00#8, 0x00#8, 0xFF#8, 0xF8#8, 0x00#8] := by decide

/-- 95_test_vectors.md 2.4. -/
theorem test_eff : [0x00#8, 0x01#8, 0x03#8, 0x07#8, 0x08#8, 0x09#8, 0x0F#8, 0x10#8, 0x11#8, 0x7F#8, 0xF0#8, 0xF1#8,
    0xF7#8, 0xF8#8, 0xF9#8, 0xFA#8, 0xFF#8].map eff =
    [0x00#8, 0x08#8, 0x08#8, 0x08#8, 0x08#8, 0x10#8, 0x10#8, 0x10#8, 0x18#8, 0x80#8, 0xF0#8, 0xF8#8, 0xF8#8, 0xF8#8,
      0x00#8, 0x00#8, 0x00#8] := by decide

/-- 20_memory.md R68, R69, R71: a page of pending bytes rolls over inside the page, and a stop commits it. -/
theorem test_refdev_page : pageNext 0x0F#8 = 0x08#8 ∧
    (RefDev.onStop ⟨0x50#7, [], 0x10#8, .wd, [(0x08#8, 0x01#8), (0x09#8, 0x02#8)], 0, [2]⟩) =
      ⟨0x50#7, [(8, 0x01#8), (9, 0x02#8)], 0x10#8, .idle, [], 2, []⟩ := by decide

/-- 20_memory.md R69: a busy device refuses the address and counts the attempt. -/
theorem test_refdev_busy : RefDev.onWrite 0xA0#8 ⟨0x50#7, [], 0#8, .addr, [], 2, []⟩ =
    (false, ⟨0x50#7, [], 0#8, .off, [], 1, []⟩) := by decide

/-! ### States that meet the invariant -/

/-- R35's defaults are distinct. -/
theorem default_codes_distinct : Distinct Config.defaultCodes := by decide

/-- Inv of a state in which a command runs, part by part. -/
theorem inv_running {s : State} {c : Instr} {l : Label} {i : Byte} (w : Byte) (hs : s.sch = .run c.op l i)
    (hw : s.lc = encode c ∧ s.twcr = w) (hd : decode (encode c) = .command c ∧ w &&& 0x0B#8 = 0#8)
    (hb : Memory.wf s.buf = true) (ha : s.answer = none)
    (hz : lengthZero c = false) (hl : (tableOf c s l i).isSome = true) (hp : labelPhase c.op l s.bph = true)
    (hi : indexInRange c l i = true) (hf : inFlight c l i s) (ht : statusAt c.op l s)
    (hc : Config.defaultCodes = s.params.codes := by rfl) : Inv s := by
  refine ⟨hb, ha, by rw [hw.2]; exact hd.2, hc ▸ default_codes_distinct, ?_⟩
  unfold schOk
  rw [hs]
  exact ⟨c, by rw [hw.1]; exact hd.1, rfl, hz, hl, hp, hi, hf, ht⟩

theorem inv_pStatus : Inv (about .block (runAt .pStatus .s0 0#8 .idle)) :=
  inv_running (c := .pStatus) 0x00#8 rfl ⟨rfl, rfl⟩ (by decide) rfl rfl rfl rfl rfl rfl trivial trivial

theorem inv_pInit : Inv (about .block (runAt (.pInit 0x48#8 5#3) .s0 0#8 .idle)) :=
  inv_running (c := .pInit 0x48#8 5#3) 0x00#8 rfl ⟨rfl, rfl⟩ (by decide) rfl rfl rfl rfl rfl rfl trivial trivial

theorem inv_pStart (m : Move) : Inv (about m (issuedAt .pStart .s0 0#8 .idle .start)) :=
  inv_running (c := .pStart) 0x24#8 rfl ⟨rfl, rfl⟩ (by decide) rfl rfl rfl rfl rfl rfl ⟨rfl, rfl, rfl, rfl⟩ trivial

theorem inv_pStop (m : Move) : Inv (about m (issuedAt .pStop .s0 0#8 .mt .stop)) :=
  inv_running (c := .pStop) 0x14#8 rfl ⟨rfl, rfl⟩ (by decide) rfl rfl rfl rfl rfl rfl ⟨rfl, rfl, rfl, rfl⟩ trivial

theorem inv_pTxaddr (dir : Dir) (m : Move) :
    Inv (about m (issuedAt (.pTxaddr 0x50#7 dir) .s0 0#8 .addr (.txaddr 0x50#7 dir))) :=
  inv_running (c := .pTxaddr 0x50#7 dir) 0x04#8 rfl ⟨rfl, rfl⟩ (by cases dir <;> decide) rfl rfl rfl rfl rfl rfl
    ⟨rfl, rfl, rfl, rfl⟩ trivial

theorem inv_pRxbyte (m : Move) : Inv (about m (issuedAt (.pRxbyte true) .s0 0#8 .mr (.rxbyte true))) :=
  inv_running (c := .pRxbyte true) 0x44#8 rfl ⟨rfl, rfl⟩ (by decide) rfl rfl rfl rfl rfl rfl ⟨rfl, rfl, rfl, rfl⟩ trivial

theorem inv_eRdbyte (m : Move) : Inv (about m (issuedAt (.eRdbyte 0x10#8) .b5 0#8 .mr (.rxbyte false))) :=
  inv_running (c := .eRdbyte 0x10#8) 0x04#8 rfl ⟨rfl, rfl⟩ (by decide) rfl rfl rfl rfl rfl rfl ⟨rfl, rfl, rfl, rfl⟩ trivial

theorem inv_eRdseq_b5 (m : Move) : Inv (about m (issuedAt (.eRdseq 0x10#8 2#8) .b5 0#8 .mr (.rxbyte true))) :=
  inv_running (c := .eRdseq 0x10#8 2#8) 0x44#8 rfl ⟨rfl, rfl⟩ (by decide) rfl rfl rfl rfl rfl (by decide)
    ⟨rfl, rfl, rfl, rfl⟩ trivial

theorem inv_eRdseq_b6 (m : Move) : Inv (about m (issuedAt (.eRdseq 0x10#8 255#8) .b6 254#8 .mr (.rxbyte false))) :=
  inv_running (c := .eRdseq 0x10#8 255#8) 0x04#8 rfl ⟨rfl, rfl⟩ (by decide) rfl rfl rfl rfl rfl rfl ⟨rfl, rfl, rfl, rfl⟩
    trivial

theorem inv_eWrbyte (m : Move) :
    Inv (about m (issuedAt (.eWrbyte 0x10#8 0x45#8) .b2 0#8 .mt (.txbyte 0x10#8))) :=
  inv_running (c := .eWrbyte 0x10#8 0x45#8) 0x04#8 rfl ⟨rfl, rfl⟩ (by decide) rfl rfl rfl rfl rfl rfl ⟨rfl, rfl, rfl, rfl⟩
    trivial

theorem inv_eWaitrdy_end : Inv (about .block { runAt .eWaitrdy .fin 0#8 .idle with twsrCode := 0x1F#5 }) :=
  inv_running (c := .eWaitrdy) 0x00#8 rfl ⟨rfl, rfl⟩ (by decide) rfl rfl rfl rfl rfl rfl trivial (fun _ => rfl)

/-- At rest, with any move to make. -/
theorem inv_rest (m : Move) : Inv (about m State.reset) := ⟨rfl, rfl, (by decide : 0x00#8 &&& 0x0B#8 = 0#8), default_codes_distinct, rfl⟩

/-- In S_FAULT, with any move to make. -/
def faulted (m : Move) : State := about m { State.reset with sch := .fault, twsrCode := 7#5 }

theorem inv_faulted (m : Move) : Inv (faulted m) := ⟨rfl, rfl, (by decide : 0x00#8 &&& 0x0B#8 = 0#8), default_codes_distinct, rfl⟩

/-! ### The hypotheses of the statements can be met -/

theorem witness_moves (m : Move) : (about m State.reset).moves = [m] := rfl

theorem witness_hostWrite_busy : (issuedAt .pStart .s0 0#8 .idle .start).busy = true ∧
    (issuedAt .pStart .s0 0#8 .idle .start).sch ≠ .idle ∧ State.reset.busy = false := by decide

theorem witness_host_address_bounds : (0x006#9).toNat = 0x006 ∧ (0x00A#9).toNat = 0x00A ∧ (0x0FF#9).toNat = 0x0FF ∧
    (0x100#9).toNat = 0x100 + (0x00#8).toNat ∧ (0x1FF#9).toNat = 0x100 + (0xFF#8).toNat := by decide

theorem witness_OnlyDontCareBitIsTxaddrAZero : cwOp 0x04A00000#32 = 0x04#8 ∧
    decode 0x04A00000#32 = .command (.pTxaddr 0x50#7 .w) ∧
    decode 0x04A10000#32 = .command (.pTxaddr 0x50#7 .w) := by decide

theorem witness_EncodeOfDecode : decode 0x04A10001#32 = .command (.pTxaddr 0x50#7 .r) ∧
    encode (.pTxaddr 0x50#7 .r) = 0x04A00001#32 ∧ cwOp 0x14000000#32 ≠ 0x04#8 := by decide

theorem witness_AssemblerReadsTheDisassembly : (Instr.eRdseq 0xFF#8 255#8).wellFormed = true := by decide

/-- Every branch of the launch: no row, a row with its must-be-zero bits set, LEN_ZERO, SEQUENCE, accepted. -/
theorem witness_LaunchChecksInOrder : (∀ r ∈ opcodeMap, cwOp r.pattern ≠ cwOp 0x08000000#32) ∧
    (∃ r ∈ opcodeMap, cwOp r.pattern = cwOp 0x01000001#32 ∧ 0x01000001#32 &&& r.mask ≠ r.pattern) ∧
    (∃ r ∈ opcodeMap, cwOp r.pattern = cwOp 0x13100000#32 ∧ 0x13100000#32 &&& r.mask = r.pattern ∧ r.op = .eRdseq ∧
      cwB 0x13100000#32 = 0#8) ∧
    (∃ r ∈ opcodeMap, cwOp r.pattern = cwOp 0x03000000#32 ∧ 0x03000000#32 &&& r.mask = r.pattern ∧
      legalPhase r.op .idle = false ∧ legalPhase r.op .addr = true) := by decide

theorem witness_launch_phases : legalPhase .pStop .idle = false ∧ legalPhase .pTxaddr .addr = true ∧
    legalPhase .pTxbyte .mtNak = true ∧ legalPhase .pRxbyte .mrNak = true ∧ legalPhase .pRxbyte .mt = false ∧
    legalPhase .pInit .idle = true ∧ legalPhase .eWaitrdy .mr = false := by decide

theorem witness_StepRunsTheDecodedCommand :
    decode (cmdWordOf 0x02#8 0x00#8 0x00#8 0x00#8) = .command .pStart ∧
    decode (issuedAt .pStart .s0 0#8 .idle .start).lc = .command .pStart ∧
    (issuedAt .pStart .s0 0#8 .idle .start).pend ≠ none := by decide

/-- Every label of every command can be due, in flight with every answer, and waiting. -/
theorem witness_Ready (c : Instr) (l : Label) (i : Byte) (bph : Phase) : Ready c l i (runAt c l i bph) := ⟨rfl, rfl, rfl⟩

theorem witness_Given (c : Instr) (l : Label) (i : Byte) (q : BusOp) (r : Response) (bph : Phase) :
    Given c l i q r { runAt c l i bph with pend := some q, answer := some r } := ⟨rfl, rfl, rfl⟩

theorem witness_Waiting (c : Instr) (l : Label) (i : Byte) (q : BusOp) (bph : Phase) :
    Waiting c l i q { runAt c l i bph with pend := some q } := ⟨rfl, rfl, rfl⟩

/-- Every operation has an answer that completes it, and every one but a stop an answer that reports a fault. -/
theorem witness_answers :
    (∃ d, answered (.start true) .ok .mt 0#8 = .completes d) ∧ (∃ d, answered .stop .ok .mt 0#8 = .completes d) ∧
    (∃ d, answered (.write 0xA0#8 (.addr .w)) .nack .addr 0#8 = .completes d) ∧
    (∃ d, answered (.write 0x10#8 .data) .ack .mt 0#8 = .completes d) ∧
    (∃ d, answered (.read false) (.data 0xFF#8) .mr 0#8 = .completes d) ∧ BusOp.read true ≠ .stop :=
  ⟨⟨_, rfl⟩, ⟨_, rfl⟩, ⟨_, rfl⟩, ⟨_, rfl⟩, ⟨_, rfl⟩, by decide⟩

/-- Both branches of W2. -/
theorem witness_W2 : State.status { runAt .eWaitrdy .w2 0#8 .mt with twsrCode := 3#5, twsrPresc := 7#3 } =
      State.reset.params.codes.slaWAck ++ 0#3 ∧
    State.status { runAt .eWaitrdy .w2 0#8 .mtNak with twsrCode := 4#5 } ≠ State.reset.params.codes.slaWAck ++ 0#3 := by decide

/-- Boundary values of the loops: E.WRPAGE's B3 at 6 and 7, E.RDSEQ's B4 at lengths 1 and 2, its B5 at length 3. -/
theorem witness_loops : (6#8).toNat < 7 ∧ ¬ (7#8).toNat < 7 ∧ ¬ 2 ≤ (1#8).toNat ∧ 2 ≤ (2#8).toNat ∧
    (0#8).toNat + 1 < (3#8).toNat - 1 ∧ ¬ (1#8).toNat + 1 < (3#8).toNat - 1 := by decide

theorem witness_eff : (0xF8#8).toNat ≤ 0xF8 ∧ 0xF9 ≤ (0xF9#8).toNat := by decide

/-- A state at rest with the operand bytes of `c` staged and the moves of its run. -/
def staged (c : Instr) (ms : List Move) : State :=
  { State.reset with
    cmdA := cwA (encode c), cmdB := cwB (encode c), cmdF := cwF (encode c)
    moves := .hostWrite 0x000#9 (cwOp (encode c)) :: ms }

theorem witness_runs (c : Instr) (ms : List Move) : AtRest (staged c ms) ∧ Staged c ms (staged c ms) ∧
    Memory.wf (staged c ms).buf = true := ⟨⟨rfl, rfl, rfl, rfl, default_codes_distinct⟩, ⟨rfl, rfl, rfl, rfl⟩, rfl⟩

theorem witness_run_lengths : [true, false, true, true, true, true, true, true].length = 8 ∧
    [0x11#8].length = (1#8).toNat ∧ (List.replicate 255 0x22#8).length = (255#8).toNat ∧ 1#8 ≠ 0#8 := by decide +kernel

theorem witness_HangsAreAdmitted : Distinct (runAt .eWaitrdy .w0 0#8 .idle).params.codes ∧
    decode (runAt .eWaitrdy .w0 0#8 .idle).lc = .command .eWaitrdy ∧
    decode (runAt (.eWrbyte 0x10#8 0x45#8) .w0 0#8 .idle).lc = .command (.eWrbyte 0x10#8 0x45#8) ∧
    decode (runAt (.eWrpage 0x10#8) .w0 7#8 .idle).lc = .command (.eWrpage 0x10#8) := by decide

theorem witness_HangsAreAdmitted_silent_bus :
    Inv (about .block (issuedAt .pStart .s0 0#8 .idle .start)) ∧
    (about .block (issuedAt .pStart .s0 0#8 .idle .start)).pend ≠ none ∧
    (about .block (issuedAt .pStart .s0 0#8 .idle .start)).moves = List.replicate 1 .block :=
  ⟨inv_pStart .block, by decide, rfl⟩

theorem witness_FaultEntryStopsTheBlock :
    Inv (about (.env .busError) (issuedAt (.eRdseq 0x10#8 2#8) .b5 0#8 .mr (.rxbyte true))) ∧
    (about (.env .busError) (issuedAt (.eRdseq 0x10#8 2#8) .b5 0#8 .mr (.rxbyte true))).pend = some (.read true) ∧
    BusOp.read true ≠ .stop := ⟨inv_eRdseq_b5 _, rfl, by decide⟩

theorem witness_OnlyResetLeavesFault (m : Move) : (faulted m).sch = .fault ∧ (faulted m).pend = none ∧
    (faulted m).moves = [m] := ⟨rfl, rfl, rfl⟩

/-- RESULT changes in each of the ways named. -/
theorem witness_OnlyResultCommandsWriteResult :
    (Inv (about .block (runAt .pStatus .s0 0#8 .idle)) ∧
      seen State.result (about .block (runAt .pStatus .s0 0#8 .idle)) = some 0xF8#8) ∧
    (Inv (about (.env (.data 0x45#8)) (issuedAt (.pRxbyte true) .s0 0#8 .mr (.rxbyte true))) ∧
      seen State.result (about (.env (.data 0x45#8)) (issuedAt (.pRxbyte true) .s0 0#8 .mr (.rxbyte true))) =
        some 0x45#8) ∧
    (Inv (about (.env (.data 0x45#8)) (issuedAt (.eRdbyte 0x10#8) .b5 0#8 .mr (.rxbyte false))) ∧
      seen State.result (about (.env (.data 0x45#8)) (issuedAt (.eRdbyte 0x10#8) .b5 0#8 .mr (.rxbyte false))) =
        some 0x45#8) ∧
    Inv (about (.rst []) { State.reset with result := 0x99#8 }) :=
  ⟨⟨inv_pStatus, by decide⟩, ⟨inv_pRxbyte _, by decide⟩, ⟨inv_eRdbyte _, by decide⟩,
    ⟨rfl, rfl, (by decide : 0x00#8 &&& 0x0B#8 = 0#8), default_codes_distinct, rfl⟩⟩

/-- BUF changes in each of the ways named. -/
theorem witness_OnlyHostAndRdseqWriteBuf :
    (Inv (about (.hostWrite 0x1FF#9 0x5A#8) State.reset) ∧
      seen (fun s => s.bufAt 0xFF#8) (about (.hostWrite 0x1FF#9 0x5A#8) State.reset) = some 0x5A#8) ∧
    (Inv (about (.env (.data 0x45#8)) (issuedAt (.eRdseq 0x10#8 2#8) .b5 0#8 .mr (.rxbyte true))) ∧
      seen (fun s => s.bufAt 0#8)
        (about (.env (.data 0x45#8)) (issuedAt (.eRdseq 0x10#8 2#8) .b5 0#8 .mr (.rxbyte true))) = some 0x45#8) ∧
    (Inv (about (.env (.data 0x45#8)) (issuedAt (.eRdseq 0x10#8 255#8) .b6 254#8 .mr (.rxbyte false))) ∧
      seen (fun s => s.bufAt 254#8)
        (about (.env (.data 0x45#8)) (issuedAt (.eRdseq 0x10#8 255#8) .b6 254#8 .mr (.rxbyte false))) = some 0x45#8) ∧
    (Inv (about (.rst [0x77#8]) State.reset) ∧
      seen (fun s => s.bufAt 0#8) (about (.rst [0x77#8]) State.reset) = some 0x77#8) :=
  ⟨⟨inv_rest _, by decide⟩, ⟨inv_eRdseq_b5 _, by decide⟩, ⟨inv_eRdseq_b6 _, by decide⟩,
    ⟨inv_rest _, by decide⟩⟩

/-- LC and the clock change in each of the ways named. -/
theorem witness_OnlyLaunchWritesLatchOnlyInitWritesClock :
    (Inv (about (.hostWrite 0x000#9 0x02#8) State.reset) ∧
      seen State.lc (about (.hostWrite 0x000#9 0x02#8) State.reset) = some 0x02000000#32) ∧
    (Inv (about .block (runAt (.pInit 0x48#8 5#3) .s0 0#8 .idle)) ∧
      seen (fun s => (s.twbr, s.twsrPresc)) (about .block (runAt (.pInit 0x48#8 5#3) .s0 0#8 .idle)) =
        some (0x48#8, 5#3)) :=
  ⟨⟨inv_rest _, by decide⟩, ⟨inv_pInit, by decide⟩⟩

/-- BPH changes along each of the edges named. -/
theorem witness_BusPhaseFollowsItsEdges :
    (Inv (about (.env .ok) (issuedAt .pStart .s0 0#8 .idle .start)) ∧
      seen State.bph (about (.env .ok) (issuedAt .pStart .s0 0#8 .idle .start)) = some .addr) ∧
    (Inv (about (.env .nack) (issuedAt (.pTxaddr 0x50#7 .w) .s0 0#8 .addr (.txaddr 0x50#7 .w))) ∧
      seen State.bph (about (.env .nack) (issuedAt (.pTxaddr 0x50#7 .w) .s0 0#8 .addr (.txaddr 0x50#7 .w))) =
        some .mtNak) ∧
    (Inv (about (.env .ack) (issuedAt (.pTxaddr 0x50#7 .r) .s0 0#8 .addr (.txaddr 0x50#7 .r))) ∧
      seen State.bph (about (.env .ack) (issuedAt (.pTxaddr 0x50#7 .r) .s0 0#8 .addr (.txaddr 0x50#7 .r))) =
        some .mr) ∧
    (Inv (about (.env .ok) (issuedAt .pStop .s0 0#8 .mt .stop)) ∧
      seen State.bph (about (.env .ok) (issuedAt .pStop .s0 0#8 .mt .stop)) = some .idle) :=
  ⟨⟨inv_pStart _, by decide⟩, ⟨inv_pTxaddr .w _, by decide⟩, ⟨inv_pTxaddr .r _, by decide⟩,
    ⟨inv_pStop _, by decide⟩⟩

/-- BUSY rises and falls. -/
theorem witness_BusyRisesAtLaunchAndFallsAtEnd :
    (Inv (about (.hostWrite 0x000#9 0x02#8) State.reset) ∧
      seen State.busy (about (.hostWrite 0x000#9 0x02#8) State.reset) = some true) ∧
    (Inv (about .block { runAt .eWaitrdy .fin 0#8 .idle with twsrCode := 0x1F#5 }) ∧
      seen State.busy (about .block { runAt .eWaitrdy .fin 0#8 .idle with twsrCode := 0x1F#5 }) = some false) :=
  ⟨⟨inv_rest _, by decide⟩, ⟨inv_eWaitrdy_end, by decide⟩⟩

/-- NAK is set, cleared and kept. -/
theorem witness_NakRecordsUnpolledNotAcknowledge :
    (Inv (about (.env .nack) (issuedAt (.eWrbyte 0x10#8 0x45#8) .b2 0#8 .mt (.txbyte 0x10#8))) ∧
      seen State.nak (about (.env .nack) (issuedAt (.eWrbyte 0x10#8 0x45#8) .b2 0#8 .mt (.txbyte 0x10#8))) =
        some true) ∧
    (Inv (about (.hostWrite 0x005#9 0x02#8) { State.reset with nak := true }) ∧
      seen State.nak (about (.hostWrite 0x005#9 0x02#8) { State.reset with nak := true }) = some false) :=
  ⟨⟨inv_eWrbyte _, by decide⟩, ⟨⟨rfl, rfl, (by decide : 0x00#8 &&& 0x0B#8 = 0#8), default_codes_distinct, rfl⟩, by decide⟩⟩

/-- OVR is set at both kinds of address and cleared, and CMD_OP is written. -/
theorem witness_OvrRecordsDroppedWrites :
    (Inv (faulted (.hostWrite 0x000#9 0x01#8)) ∧ seen State.ovr (faulted (.hostWrite 0x000#9 0x01#8)) = some true) ∧
    (Inv (faulted (.hostWrite 0x100#9 0x01#8)) ∧ seen State.ovr (faulted (.hostWrite 0x100#9 0x01#8)) = some true) ∧
    (Inv (about (.hostWrite 0x000#9 0x08#8) State.reset) ∧
      seen State.cmdOp (about (.hostWrite 0x000#9 0x08#8) State.reset) = some 0x08#8) :=
  ⟨⟨inv_faulted _, by decide⟩, ⟨inv_faulted _, by decide⟩, ⟨inv_rest _, by decide⟩⟩

/-- ERRCODE after a rejected and after an accepted launch. -/
theorem witness_ErrcodeIsTheLastLaunchOutcome :
    seen (fun s => (s.errcode, s.busy)) (about (.hostWrite 0x000#9 0x08#8) State.reset) = some (.illegalOp, false) ∧
    seen (fun s => (s.errcode, s.busy)) (about (.hostWrite 0x000#9 0x02#8) State.reset) = some (.none, true) := by
  decide

theorem witness_HostCannotDisturbARunningCommand :
    (about (.hostWrite 0x000#9 0x11#8) (issuedAt .pStart .s0 0#8 .idle .start)).busy = true ∧
    (faulted (.hostRead 0x005#9)).busy = true := by decide

theorem witness_StagingNeverReachesARunningCommand : (about .block (runAt .pStatus .s0 0#8 .idle)).busy = true ∧
    seen State.result (about .block (runAt .pStatus .s0 0#8 .idle)) = some 0xF8#8 := by decide

/-- Inv holds of states of every kind; each takes a step. -/
theorem witness_invariant (m : Move) : Inv (about m State.reset) ∧ Inv (faulted m) ∧
    Inv (about m (issuedAt .pStart .s0 0#8 .idle .start)) ∧
    Inv (about m (issuedAt (.eRdseq 0x10#8 255#8) .b6 254#8 .mr (.rxbyte false))) :=
  ⟨inv_rest m, inv_faulted m, inv_pStart m, inv_eRdseq_b6 m⟩

theorem witness_NoPrimitiveOutOfSequence : Inv (about .block (runAt .pStart .s0 0#8 .idle)) ∧
    (about .block (runAt .pStart .s0 0#8 .idle)).pend = none ∧
    seen State.pend (about .block (runAt .pStart .s0 0#8 .idle)) = some (some (.start false)) :=
  ⟨inv_running (c := .pStart) 0x00#8 rfl ⟨rfl, rfl⟩ (by decide) rfl rfl rfl rfl rfl rfl trivial trivial, rfl,
    by decide⟩

theorem witness_ECommandEndsWithTheBusIdle :
    Inv (about .block { runAt .eWaitrdy .fin 0#8 .idle with twsrCode := 0x1F#5 }) ∧ Op.eWaitrdy.isE = true ∧
    seen State.sch (about .block { runAt .eWaitrdy .fin 0#8 .idle with twsrCode := 0x1F#5 }) = some .idle :=
  ⟨inv_eWaitrdy_end, rfl, by decide⟩

/-- A step that adds a bus event to a bracketed trace, and one that adds a fault. -/
theorem witness_TransactionsStayBracketed :
    BusBracketed (about (.env .ok) (issuedAt .pStart .s0 0#8 .idle .start)) ∧
    seen State.trace (about (.env .ok) (issuedAt .pStart .s0 0#8 .idle .start)) = some [.start] ∧
    seen State.trace (about (.env .arbLost) (issuedAt .pStart .s0 0#8 .idle .start)) = some [.fault 0x38#8] :=
  ⟨⟨rfl, rfl⟩, by decide, by decide⟩

/-- exec of every command answers a next state: the hypotheses of the frames. -/
theorem witness_frames (c : Instr) : exec c State.reset = .next (launch c State.reset) ∧
    (runAt c .fin 0#8 .idle).pend = none := ⟨exec_idle rfl, rfl⟩

/-- The frames where the command runs: a start issued, a byte received, a byte stored. -/
theorem witness_frames_running :
    (∃ t, exec .pStart (runAt .pStart .s0 0#8 .idle) = .next t ∧ t.twdr = 0xFF#8) ∧
    (∃ t, exec (.eRdseq 0x10#8 2#8) (answering (.data 0x45#8) (issuedAt (.eRdseq 0x10#8 2#8) .b5 0#8 .mr (.rxbyte true))) =
      .next t ∧ t.buf = [(0, 0x45#8)]) := ⟨⟨_, rfl, rfl⟩, ⟨_, rfl, rfl⟩⟩

/-- A bench at rest with a device at the block's address. -/
def bench (program : List HostOp) : Bench := ⟨State.reset, RefDev.initial 0x50#7 [(3, 0xFF#8)] [1, 2], program⟩

theorem witness_round_trips (program : List HostOp) : Inv (bench program).block ∧ AtRest (bench program).block ∧
    DeviceReady (bench program) :=
  ⟨⟨rfl, rfl, (by decide : 0x00#8 &&& 0x0B#8 = 0#8), default_codes_distinct, rfl⟩, ⟨rfl, rfl, rfl, rfl, default_codes_distinct⟩, ⟨rfl, rfl, rfl, rfl⟩⟩

end Sys2Proof.Tests
end

section
/-! PROOFS. The bus trace between resets (00_scope.md R11, 10_state.md R39, 70_reset_and_hazards.md R188): one event at the end of a bracketed trace, what a completed bus operation adds, and the invariant kept by every step. -/

namespace Sys2Proof.Machine

/-- A BLOCK step adds nothing to the bus trace: the bus acts at completions alone (R102). -/
@[simp] theorem blockAction_trace (op : Op) (i : Byte) (a : Action) (s : State) :
    (blockAction op i a s).trace = s.trace := by
  cases a <;> simp [blockAction]

/-- A BLOCK step leaves the bus phase (R40, R102). -/
@[simp] theorem blockAction_bph (op : Op) (i : Byte) (a : Action) (s : State) :
    (blockAction op i a s).bph = s.bph := by
  cases a <;> simp [blockAction]

/-- The phases in which a command stands at an issue label admit the primitive it issues there (R89, R118, R139). -/
theorem issue_inSequence {c : Instr} {s : State} {l : Label} {i : Byte} {p : Prim} {after : After}
    (hl : labelPhase c.op l s.bph = true) (ha : tableOf c s l i = some (.issue p after)) :
    p.inSequence s.bph = true := by
  cases c <;> cases l <;> simp [tableOf, tablePStatus, tablePStart, tablePStop, tablePTxaddr, tablePTxbyte, tablePRxbyte,
    tablePInit, primitiveTable, tableEWrbyte, tableERdbyte, tableEWrpage, tableERdseq, tableEWaitrdy, pollTable] at ha
  all_goals
    obtain ⟨rfl, -⟩ := ha
    revert hl
    generalize s.bph = bph
    cases bph <;> simp [labelPhase, legalPhase, Instr.op, Prim.inSequence, Phase.transmits, Phase.receives, sendSlaW,
      sendSlaR]

/-- A primitive other than a start is issued inside a transaction (R39, R40). -/
theorem Prim.inSequence_ne_idle {p : Prim} {bph : Phase} (h : p.inSequence bph = true) (hp : p ≠ .start) :
    (bph != .idle) = true := by
  rw [bne_iff_ne]
  rintro rfl
  cases p <;> simp [Prim.inSequence, Phase.transmits, Phase.receives] at h hp

/-- An acknowledged or refused address byte leaves the bus inside a transaction (R40). -/
theorem addrDone_phase_ne_idle (dir : Dir) (ack : Bool) : ((addrDone dir ack).2 != .idle) = true := by
  cases dir <;> cases ack <;> rfl

end Sys2Proof.Machine

namespace Sys2Proof.Claim
open Sys2Proof.Machine

theorem owned_append (us vs : List BusEvent) (o : Bool) : owned (us ++ vs) o = owned vs (owned us o) := by
  induction us generalizing o with
  | nil => rfl
  | cons e us ih => cases e <;> exact ih _

theorem bracketed_append (us vs : List BusEvent) (o : Bool) :
    bracketed (us ++ vs) o = (bracketed us o && bracketed vs (owned us o)) := by
  induction us generalizing o with
  | nil => rfl
  | cons e us ih => cases e <;> simp [bracketed, owned, ih, Bool.and_assoc]

/-- BusBracketed reads the trace and BPH alone. -/
theorem BusBracketed.congr {s t : State} (h : BusBracketed s) (htrace : t.trace = s.trace) (hbph : t.bph = s.bph) :
    BusBracketed t := by
  unfold BusBracketed
  rw [htrace, hbph]
  exact h

/-- One more event: it must be admitted where BPH says the bus is, and lead to where BPH then says it is. -/
theorem BusBracketed.snoc {s t : State} {e : BusEvent} (h : BusBracketed s) (htrace : t.trace = s.trace ++ [e])
    (hadm : bracketed [e] (s.bph != .idle) = true) (hown : owned [e] (s.bph != .idle) = (t.bph != .idle)) :
    BusBracketed t := by
  obtain ⟨hb, ho⟩ := h
  constructor
  · rw [htrace, bracketed_append, hb, ho, hadm]; rfl
  · rw [htrace, owned_append, ho, hown]

/-- A fault adds its event and leaves the bus where it was (R167). -/
theorem BusBracketed.enterFault {s : State} (h : BusBracketed s) (f : Status) : BusBracketed (enterFault f s) :=
  h.snoc rfl rfl rfl

/-- The event of a completed primitive is admitted in the phase it was issued in, and the bus is owned after it exactly
when the phase it leaves is not IDLE (R103 to R107). -/
theorem completion_bracketed {p : Prim} {bph : Phase} {r : Response} {twdr : Byte} {d : Done}
    (hseq : p.inSequence bph = true) (hd : answered (p.busOp bph) r bph twdr = .completes d) :
    bracketed [d.event] (bph != .idle) = true ∧ owned [d.event] (bph != .idle) = (d.bph != .idle) := by
  cases p with
  | start =>
    cases r <;> simp [answered, Prim.busOp] at hd
    subst hd
    cases bph <;> exact ⟨rfl, rfl⟩
  | stop =>
    have hbph := Prim.inSequence_ne_idle hseq (by simp)
    cases r <;> simp [answered, Prim.busOp] at hd
    subst hd
    simp [bracketed, owned, hbph]
  | txaddr sla dir =>
    have hbph := Prim.inSequence_ne_idle hseq (by simp)
    cases r <;> simp [answered, Prim.busOp, writeDone] at hd <;> subst hd <;>
      simp [bracketed, owned, hbph, addrDone_phase_ne_idle]
  | txbyte b =>
    have hbph := Prim.inSequence_ne_idle hseq (by simp)
    cases r <;> simp [answered, Prim.busOp, writeDone] at hd <;> subst hd <;> simp [bracketed, owned, hbph]
  | rxbyte k =>
    have hbph := Prim.inSequence_ne_idle hseq (by simp)
    cases r <;> simp [answered, Prim.busOp] at hd
    subst hd
    simp [bracketed, owned, hbph]

/-- Every step but a reset keeps the trace bracketed (R188). -/
theorem stepCase_busBracketed {s t u : State} {m : Move} (h : StepCase s m u t) (hu : BusBracketed u)
    (hbph : u.bph = s.bph) (hm : ∀ bytes, m ≠ .rst bytes) : BusBracketed t := by
  cases h with
  | reads a _ => exact hu.congr rfl rfl
  | writes a v _ _ => exact hu.congr (by simp) (by simp)
  | rejects v code _ _ _ => exact hu.congr rfl rfl
  | accepts v c _ _ _ _ _ => exact hu.congr rfl rfl
  | rests _ _ => exact hu
  | waits q _ _ => exact hu
  | unasked r _ _ => exact hu
  | blocks l i c a _ _ _ _ _ => exact hu.congr (by simp) (by simp)
  | completes l i c p after r d _ _ _ hr ha _ hd =>
    obtain ⟨hadm, hown⟩ := completion_bracketed (issue_inSequence hr.phase ha) hd
    rw [← hbph] at hadm hown
    exact hu.snoc (by simp) hadm (by simpa using hown)
  | faults l i c p after r f _ _ _ _ _ _ => exact hu.enterFault f
  | ignores q r _ _ _ => exact hu
  | resets bytes hrst => exact absurd hrst (hm bytes)

/-- Settles O53: at reset the trace is empty and BPH IDLE; from a state that meets Inv a completion adds an event of a
primitive issued in sequence, a fault adds one that opens and closes nothing, and no other step touches trace or BPH. -/
theorem transactionsStayBracketed : Obligations.TransactionsStayBracketed := by
  unfold Obligations.TransactionsStayBracketed
  refine ⟨⟨rfl, rfl⟩, fun s t hI hs hrst hstep => ?_⟩
  cases hm : s.moves with
  | nil =>
    rw [step_nil hm] at hstep
    injection hstep with hst
    exact hst ▸ hs
  | cons m rest =>
    exact stepCase_busBracketed (step_cases hI hm hstep) (hs.congr rfl rfl) rfl
      fun bytes hmr => hrst bytes rest (by rw [hm, hmr])

end Sys2Proof.Claim
end

section
/-! PROOFS. The invariant (10_state.md R32, R40 to R43; 40_bus_primitives.md R100, R118; 41_eeprom_ops.md R139): where the completion of an issue label leads, and Inv kept by each kind of step. -/

namespace Sys2Proof.Machine
open Sys2Proof.Claim (ackOf)

/-- A step from a state that meets Inv: no move is left and nothing changes, or it is one of the cases of the first
move. -/
theorem step_changes {s t : State} (hI : Inv s) (h : step s = .next t) :
    t = s ∨ ∃ m rest, s.moves = m :: rest ∧ StepCase s m (withMoves rest s) t := by
  cases hm : s.moves with
  | nil =>
    rw [step_nil hm] at h
    injection h with h
    exact .inl h.symm
  | cons m rest => exact .inr ⟨m, rest, rfl, step_cases hI hm h⟩

/-- The completion of a primitive: which response it was, and what it leaves of BPH and of the status (R101, R103 to
R107). -/
theorem completes_cases {p : Prim} {bph : Phase} {r : Response} {twdr : Byte} {d : Done}
    (hd : answered (p.busOp bph) r bph twdr = .completes d) :
    (p = .start ∧ r = .ok ∧ d.bph = .addr) ∨
    (p = .stop ∧ r = .ok ∧ d.bph = .idle ∧ d.status = .noInfo) ∨
    (∃ sla dir a, p = .txaddr sla dir ∧ r = ackOf a ∧ d.bph = (addrDone dir a).2 ∧ d.status = (addrDone dir a).1) ∨
    (∃ b a, p = .txbyte b ∧ r = ackOf a ∧ d.bph = bph) ∨
    (∃ k v, p = .rxbyte k ∧ r = .data v ∧ d.bph = bph) := by
  cases p with
  | start => cases r <;> simp [answered, Prim.busOp] at hd ⊢; simp [← hd]
  | stop => cases r <;> simp [answered, Prim.busOp] at hd ⊢; simp [← hd]
  | txaddr sla dir =>
    cases r <;> simp [answered, Prim.busOp, writeDone] at hd
    · exact .inr (.inr (.inl ⟨sla, dir, true, rfl, rfl, by simp [← hd], by simp [← hd]⟩))
    · exact .inr (.inr (.inl ⟨sla, dir, false, rfl, rfl, by simp [← hd], by simp [← hd]⟩))
  | txbyte b =>
    cases r <;> simp [answered, Prim.busOp, writeDone] at hd
    · exact .inr (.inr (.inr (.inl ⟨b, true, rfl, rfl, by simp [← hd]⟩)))
    · exact .inr (.inr (.inr (.inl ⟨b, false, rfl, rfl, by simp [← hd]⟩)))
  | rxbyte k =>
    cases r <;> simp [answered, Prim.busOp] at hd
    exact .inr (.inr (.inr (.inr ⟨k, _, rfl, rfl, by simp [← hd]⟩)))

/-- The bus phases the completion of a primitive can lead to (R40). -/
def Prim.leadsTo (p : Prim) (bph next : Phase) : Bool :=
  match p with
  | .start => next == .addr
  | .stop => next == .idle
  | .txaddr _ .w => next.transmits
  | .txaddr _ .r => next.receives
  | .txbyte _ => next == bph
  | .rxbyte _ => next == bph

theorem completes_leadsTo {p : Prim} {bph : Phase} {r : Response} {twdr : Byte} {d : Done}
    (hd : answered (p.busOp bph) r bph twdr = .completes d) : p.leadsTo bph d.bph = true := by
  rcases completes_cases hd with ⟨rfl, -, h⟩ | ⟨rfl, -, h, -⟩ | ⟨sla, dir, a, rfl, -, h, -⟩ | ⟨b, a, rfl, -, h⟩ |
    ⟨k, v, rfl, -, h⟩ <;> rw [h]
  · rfl
  · rfl
  · cases dir <;> cases a <;> rfl
  · exact beq_self_eq_true _
  · exact beq_self_eq_true _

/-- The label after a completion is a label of the command (R117, R139). -/
theorem issue_next_hasLabel {c : Instr} {s : State} {l : Label} {i : Byte} {p : Prim} {after : After}
    (ha : tableOf c s l i = some (.issue p after)) (t : State) : (tableOf c t after.next after.i).isSome = true := by
  cases c <;> cases l <;> cases ha
  case eWrpage.b3.refl => split <;> rfl
  case eRdseq.b4.refl => simp only [nakThen]; split <;> rfl
  case eRdseq.b5.refl => simp only [keepThen]; split <;> rfl
  all_goals rfl

/-- The bus phase a completion leaves is one in which the command can stand at its next label (R40, R117, R139). -/
theorem issue_next_phase {c : Instr} {s : State} {l : Label} {i : Byte} {p : Prim} {after : After} {bph next : Phase}
    (ha : tableOf c s l i = some (.issue p after)) (hl : labelPhase c.op l bph = true)
    (hn : p.leadsTo bph next = true) : labelPhase c.op after.next next = true := by
  cases c <;> cases l <;> cases ha <;>
    simp [labelPhase, legalPhase, Instr.op, Prim.leadsTo, sendSlaW, sendSlaR] at hl hn
  case eWrpage.b3.refl => subst hn; split <;> exact hl
  case eRdseq.b4.refl => simp only [nakThen]; split <;> exact hn
  case eRdseq.b5.refl => subst hn; simp only [keepThen]; split <;> exact hl
  case pTxaddr.s0.refl dir =>
    cases dir
    · simpa [labelPhase, Instr.op, toEnd] using Or.inl hn
    · simpa [labelPhase, Instr.op, toEnd] using Or.inr hn
  case pTxbyte.s0.refl => subst hn; rcases hl with rfl | rfl <;> rfl
  case pRxbyte.s0.refl => subst hn; rcases hl with rfl | rfl <;> rfl
  all_goals simp [labelPhase, Instr.op, andThen, nakThen, keepThen, toEnd, hn, hl]

/-- The loops of E.WRPAGE and E.RDSEQ keep their index in range (R136, R137). -/
theorem issue_next_index {c : Instr} {s : State} {l : Label} {i : Byte} {p : Prim} {after : After}
    (ha : tableOf c s l i = some (.issue p after)) (hi : indexInRange c l i = true) :
    indexInRange c after.next after.i = true := by
  cases c <;> cases l <;> cases ha
  case eWrpage.b3.refl =>
    split
    · next hlt =>
      simp only [Config.page] at hlt
      simp [nakThen, nextIndex, indexInRange, Config.page]
      omega
    · rfl
  case eRdseq.b4.refl =>
    simp only [nakThen]
    split
    · simp [indexInRange]; omega
    · rfl
  case eRdseq.b5.refl =>
    simp only [keepThen]
    split
    · simp [nextIndex, indexInRange]; omega
    · rfl
  all_goals rfl

/-- Only the poll's address byte leads to W2, and only a stop leads an E command to END (R130, R133, R139). -/
theorem issue_next_status {c : Instr} {s : State} {l : Label} {i : Byte} {p : Prim} {after : After}
    (ha : tableOf c s l i = some (.issue p after)) :
    (after.next = .w2 → p = sendSlaW s) ∧ (after.next = .fin → c.op.isE = true → p = .stop) := by
  cases c <;> cases l <;> cases ha
  case eWrpage.b3.refl => split <;> simp [nakThen]
  case eRdseq.b4.refl => simp only [nakThen]; split <;> simp
  case eRdseq.b5.refl => simp only [keepThen]; split <;> simp
  all_goals simp [andThen, nakThen, keepThen, toEnd, Instr.op, Op.isE]

/-- A command that runs with nothing in flight keeps its part of Inv when it stands at a label of its own, in a phase
of that label, with the index in range and the status the label reads. -/
theorem Running.move {s t : State} {op : Op} {l l' : Label} {i i' : Byte} {c : Instr} (h : Running s op l i c)
    (hlc : t.lc = s.lc) (hpend : t.pend = none) (hlabel : (tableOf c t l' i').isSome = true)
    (hphase : labelPhase op l' t.bph = true) (hindex : indexInRange c l' i' = true) (hstatus : statusAt op l' t) :
    Running t op l' i' c where
  latched := by rw [hlc]; exact h.latched
  opOf := h.opOf
  accepted := h.accepted
  hasLabel := hlabel
  phase := hphase
  index := hindex
  flight := by unfold inFlight; rw [hpend]; trivial
  status := hstatus

theorem schOk_run {s : State} {op : Op} {l : Label} {i : Byte} {c : Instr} (hs : s.sch = .run op l i)
    (h : Running s op l i c) : schOk s := by
  unfold schOk; rw [hs]; exact ⟨c, h⟩

theorem schOk_idle {s : State} (hs : s.sch = .idle) (hp : s.pend = none) : schOk s := by
  unfold schOk; rw [hs]; exact hp

theorem schOk_fault {s : State} (hs : s.sch = .fault) (hp : s.pend = none) : schOk s := by
  unfold schOk; rw [hs]; exact hp

/-- Nothing is in flight in S_IDLE. -/
theorem Inv.pend_idle {s : State} (hI : Inv s) (hs : s.sch = .idle) : s.pend = none := by
  have h := hI.sch
  unfold schOk at h
  rwa [hs] at h

/-- A write of a byte of BUF keeps Inv of an idle block (R53). -/
theorem inv_setBufAt {s : State} (hI : Inv s) (hs : s.sch = .idle) (i v : Byte) : Inv (setBufAt i v s) where
  bufWf := wf_memWrite i v hI.bufWf
  answered := hI.answered
  hardwired := hI.hardwired
  codes := hI.codes
  sch := schOk_idle hs (hI.pend_idle hs)

/-- A host write that launches nothing keeps Inv: only an idle block takes a byte of BUF, and Inv reads no other
register a host write touches (R53). -/
theorem inv_hostWrite {s : State} (hI : Inv s) (a : HAddr) (v : Byte) : Inv (hostWrite a v s) := by
  rcases hostWrite_cases a v s with e | e | e | e | e | e | ⟨hb, i, e⟩ <;> rw [e]
  case inr.inr.inr.inr.inr.inr => exact inv_setBufAt hI ((busy_eq_false_iff s).mp hb) i v
  all_goals exact hI.congr rfl rfl rfl rfl rfl rfl rfl rfl rfl rfl

/-- A command that is legal in a bus phase can stand at its first label (R89, R117, R139). -/
theorem labelPhase_firstLabel {op : Op} {bph : Phase} (hl : legalPhase op bph = true) :
    labelPhase op (firstLabel op) bph = true := by
  cases op
  case eWaitrdy => exact (Bool.or_eq_true _ _).mpr (.inl hl)
  all_goals exact hl

/-- A launch puts a command at its first label (R84, R89). -/
theorem inv_accept {s : State} (hI : Inv s) {c : Instr} (hs : s.sch = .idle) (hd : decode s.cmdWord = .command c)
    (hz : lengthZero c = false) (hl : legalPhase c.op s.bph = true) : Inv (accept c.op s) where
  bufWf := hI.bufWf
  answered := hI.answered
  hardwired := hI.hardwired
  codes := hI.codes
  sch := by
    refine schOk_run (c := c) rfl ⟨hd, rfl, hz, ?_, ?_, ?_, ?_, ?_⟩
    · cases c <;> rfl
    · exact labelPhase_firstLabel hl
    · cases c <;> rfl
    · unfold inFlight; rw [accept_pend, hI.pend_idle hs]; trivial
    · cases c <;> trivial

/-- The issue of a primitive puts its operation in flight at the label that issues it (R102). -/
theorem Running.issue {s : State} {op : Op} {l : Label} {i : Byte} {c : Instr} {p : Prim} {after : After}
    (h : Running s op l i c) (ha : tableOf c s l i = some (.issue p after)) : Running (Machine.issue p s) op l i c where
  latched := h.latched
  opOf := h.opOf
  accepted := h.accepted
  hasLabel := by rw [tableOf_congr c (s := s) (t := Machine.issue p s) rfl rfl]; exact h.hasLabel
  phase := h.phase
  index := h.index
  flight := by
    unfold inFlight
    rw [tableOf_congr c (s := s) (t := Machine.issue p s) rfl rfl, ha]
    exact ⟨rfl, rfl, rfl, twdrIssued_idem _ _⟩
  status := by
    obtain ⟨hw2, hfin⟩ := issue_label ha
    cases l <;> trivial

/-- The poll's check goes to W3 exactly when the address byte was acknowledged, that is in phase MT (R133). -/
theorem Running.pollCheck {s : State} {op : Op} {i : Byte} {c : Instr} (hcodes : Distinct s.params.codes)
    (h : Running s op .w2 i c) :
    labelPhase op (if s.status = Status.slaWAck.value s.params.codes then .w3 else .w0) s.bph = true := by
  have hphase : s.bph.transmits = true := h.phase
  have hstatus : s.twsrCode = _ := h.status
  rw [status_eq, hstatus]
  obtain hb | hb : s.bph = .mt ∨ s.bph = .mtNak := by
    revert hphase
    cases s.bph <;> simp [Phase.transmits]
  · have he : (Status.slaWAck.code s.params.codes ++ 0#3 : Byte) = Status.slaWAck.value s.params.codes := rfl
    rw [hb, if_pos (show Phase.mt = .mt from rfl), if_pos he]
    rfl
  · have hne : ¬ (Status.slaWNack.code s.params.codes ++ 0#3 : Byte) = Status.slaWAck.value s.params.codes := fun e =>
      absurd (hcodes.code_inj ((BitVec.append_left_inj _).mp e)) (by decide)
    rw [hb, if_neg (show Phase.mtNak ≠ .mt by decide), if_neg hne]
    rfl

/-- The status that a completion leaves is the one the next label reads: at W2 the answer to the poll's address byte, at
the END of an E command NO_INFO (R130, R133). -/
theorem issue_next_statusAt {c : Instr} {s t : State} {l : Label} {i : Byte} {p : Prim} {after : After} {bph : Phase}
    {r : Response} {twdr : Byte} {d : Done} (ha : tableOf c s l i = some (.issue p after))
    (hd : answered (p.busOp bph) r bph twdr = .completes d) (hbph : t.bph = d.bph)
    (hcode : t.twsrCode = d.status.code t.params.codes) : statusAt c.op after.next t := by
  obtain ⟨hw2, hfin⟩ := issue_next_status ha
  unfold statusAt
  rw [hbph, hcode]
  split
  · next hn =>
    rw [hw2 hn] at hd
    rcases completes_cases hd with ⟨h, -⟩ | ⟨h, -⟩ | ⟨sla, dir, a, h, -, hph, hst⟩ | ⟨b, a, h, -⟩ | ⟨k, v, h, -⟩ <;>
      cases h
    rw [hph, hst]
    cases a <;> rfl
  · next hn =>
    intro he
    rw [hfin hn he] at hd
    rcases completes_cases hd with ⟨h, -⟩ | ⟨-, -, -, hst⟩ | ⟨sla, dir, a, h, -⟩ | ⟨b, a, h, -⟩ | ⟨k, v, h, -⟩
    case inr.inl => rw [hst]
    all_goals cases h
  · trivial

/-- A BLOCK step keeps Inv. -/
theorem inv_blockAction {s : State} (hI : Inv s) {l : Label} {i : Byte} {c : Instr} {a : Action}
    (hp : s.pend = none) (hs : s.sch = .run c.op l i) (hr : Running s c.op l i c)
    (ha : tableOf c s l i = some a) : Inv (blockAction c.op i a s) := by
  cases a with
  | issue p after =>
    exact ⟨hI.bufWf, hI.answered, twcrIssued_hard _, hI.codes, schOk_run hs (hr.issue ha)⟩
  | readStatus =>
    obtain ⟨rfl, rfl⟩ := readStatus_label ha
    exact ⟨hI.bufWf, hI.answered, hI.hardwired, hI.codes,
      schOk_run rfl (hr.move rfl hp rfl rfl rfl (fun he => by cases he))⟩
  | init r b =>
    obtain ⟨rfl, rfl⟩ := init_label ha
    exact ⟨hI.bufWf, hI.answered, hI.hardwired, hI.codes,
      schOk_run rfl (hr.move rfl hp rfl hr.phase rfl (fun he => by cases he))⟩
  | pollCheck =>
    obtain ⟨hc, rfl⟩ := pollCheck_label ha
    refine ⟨hI.bufWf, hI.answered, hI.hardwired, hI.codes,
      schOk_run rfl (hr.move rfl hp ?_ (hr.pollCheck hI.codes) ?_ ?_)⟩
    all_goals
      rcases hc with rfl | ⟨_, rfl⟩ | ⟨_, _, rfl⟩ <;> split <;> trivial
  | finish => exact ⟨hI.bufWf, hI.answered, hI.hardwired, hI.codes, schOk_idle rfl hp⟩

/-- The completion of the operation in flight keeps Inv (R102, R139). -/
theorem inv_completed {s : State} (hI : Inv s) {l : Label} {i : Byte} {c : Instr} {p : Prim} {after : After}
    {r : Response} {d : Done} (hr : Running s c.op l i c) (ha : tableOf c s l i = some (.issue p after))
    (hd : answered (p.busOp s.bph) r s.bph s.twdr = .completes d) :
    Inv (goto c.op after.next after.i
      (storeByte after.dest r (recordNak after.nak r (completed (p.busOp s.bph) d s)))) where
  bufWf := wf_storeByte (s := recordNak after.nak r (completed (p.busOp s.bph) d s)) hI.bufWf
  answered := by simp
  hardwired := by simpa using twcrCompleted_hard _
  codes := by simpa using hI.codes
  sch := by
    refine schOk_run rfl (hr.move (by simp) (by simp) (issue_next_hasLabel ha _)
      (by simpa using issue_next_phase ha hr.phase (completes_leadsTo hd)) (issue_next_index ha hr.index)
      (issue_next_statusAt ha hd (by simp) (by simp)))

/-- Every case of a step keeps Inv. -/
theorem StepCase.inv {s t u : State} {m : Move} (h : StepCase s m u t) (hI : Inv s) {rest : List Move}
    (hu : u = withMoves rest s) : Inv t := by
  have hIu : Inv u := by subst hu; exact hI.congr rfl rfl rfl rfl rfl rfl rfl rfl rfl rfl
  subst hu
  cases h with
  | reads a _ => exact hIu.congr rfl rfl rfl rfl rfl rfl rfl rfl rfl rfl
  | writes a v _ _ => exact inv_hostWrite hIu a v
  | rejects v code _ _ _ => exact hIu.congr rfl rfl rfl rfl rfl rfl rfl rfl rfl rfl
  | accepts v c _ hs hd hz hl =>
    exact inv_accept (s := setCmdOp v (withMoves rest s)) (hI.congr rfl rfl rfl rfl rfl rfl rfl rfl rfl rfl) hs hd hz hl
  | rests _ _ => exact hIu
  | waits q _ _ => exact hIu
  | unasked r _ _ => exact hIu
  | blocks l i c a _ hp hs hr ha =>
    exact inv_blockAction hIu hp hs (hr.congr rfl rfl rfl rfl rfl rfl rfl rfl)
      (by rw [tableOf_congr c (s := s) (t := withMoves rest s) rfl rfl]; exact ha)
  | completes l i c p after r d _ hp hs hr ha hw hd =>
    exact inv_completed hIu (hr.congr rfl rfl rfl rfl rfl rfl rfl rfl)
      (by rw [tableOf_congr c (s := s) (t := withMoves rest s) rfl rfl]; exact ha) hd
  | faults l i c p after r f _ _ _ _ _ _ =>
    exact ⟨hIu.bufWf, rfl, enterFault_hard f _ hIu.hardwired, hIu.codes, schOk_fault rfl rfl⟩
  | ignores q r _ _ _ => exact hIu
  | resets bytes _ => exact ⟨wf_memOfBytes bytes, rfl, (by decide : 0x00#8 &&& 0x0B#8 = 0#8), hI.codes, rfl⟩

end Sys2Proof.Machine

namespace Sys2Proof.Claim
open Sys2Proof.Machine

/-- Settles O49: every case of the step inversion keeps Inv; a completion leads to a label of the command, in a phase,
with an index and with a status code that the label admits. -/
theorem everyStepKeepsTheInvariant : Obligations.EveryStepKeepsTheInvariant := by
  intro s t hI h
  rcases step_changes hI h with rfl | ⟨m, rest, -, hc⟩
  · exact hI
  · exact hc.inv hI rfl

end Sys2Proof.Claim
end

section
/-! PROOFS. Reset and the host's view of SSTAT (10_state.md R27, R28, R31, R45; 70_reset_and_hazards.md R180). -/

namespace Sys2Proof.Machine

/-- The fields of SSTAT (R27). -/
theorem sstat_fields (s : State) :
    s.sstat.getLsbD 0 = s.busy ∧ s.sstat.getLsbD 1 = s.nak ∧ s.sstat.getLsbD 2 = s.ovr ∧ s.sstat.getLsbD 3 = s.flt ∧
    s.sstat.extractLsb' 4 3 = s.errcode.bits ∧ s.sstat.getLsbD 7 = false := by
  unfold State.sstat
  generalize s.busy = b, s.nak = n, s.ovr = o, s.flt = f, s.errcode.bits = e
  revert b n o f e
  decide

/-- BUSY reads 1 exactly in S_RUN and S_FAULT (R28). -/
theorem busy_eq_true_iff (s : State) : s.busy = true ↔ (∃ op l i, s.sch = .run op l i) ∨ s.sch = .fault := by
  unfold State.busy
  cases s.sch <;> simp

end Sys2Proof.Machine

namespace Sys2Proof.Claim
open Sys2Proof.Machine

/-- Settles O1, by the address read: TWDR and TWSR hold their own reset values, every other register 0x00. -/
theorem resetStateHoldsTheSpecValues : Obligations.ResetStateHoldsTheSpecValues := by
  unfold Obligations.ResetStateHoldsTheSpecValues
  refine ⟨fun h hh => ?_, rfl, rfl, rfl, rfl⟩
  unfold hostValue
  rw [if_neg (Nat.not_le.mpr hh)]
  split <;> simp_all <;> rfl

/-- Settles O2: BUF reads as the bytes of the move, and every other field is that of the reset state. -/
theorem resetMoveRestoresEveryRegister : Obligations.ResetMoveRestoresEveryRegister := by
  unfold Obligations.ResetMoveRestoresEveryRegister
  intro s bytes rest hm
  refine ⟨applyReset bytes (withMoves rest s), step_cons hm, fun i => ?_, wf_memOfBytes bytes, rfl, rfl, rfl, rfl, rfl,
    rfl⟩
  exact memRead_memOfBytes bytes 0 i.toNat (Nat.zero_le _) i.isLt

/-- Settles O5, by the fields of SSTAT and what BUSY and FLT say of SCH. -/
theorem sstatBitsAreItsFields : Obligations.SstatBitsAreItsFields := by
  unfold Obligations.SstatBitsAreItsFields
  intro s
  obtain ⟨hbusy, hnak, hovr, hflt, herr, hzero⟩ := sstat_fields s
  refine ⟨by rw [hbusy, busy_eq_true_iff], hnak, hovr, by rw [hflt, flt_eq_true_iff], ?_, hzero⟩
  rw [herr]
  cases s.errcode <;> rfl

/-- Settles O48: R35's defaults are distinct, and nothing runs. -/
theorem invariantHoldsAtReset : Obligations.InvariantHoldsAtReset where
  bufWf := rfl
  answered := rfl
  hardwired := (by decide : 0x00#8 &&& 0x0B#8 = 0#8)
  codes := (by decide : Distinct Config.defaultCodes)
  sch := rfl

end Sys2Proof.Claim
end

section
/-! PROOFS. Host writes by address (20_memory.md R53, R54), and what S_FAULT admits (10_state.md R43). -/

namespace Sys2Proof.Machine

/-- A host write that launches nothing, by its address: BUF, CMD_OP, SSTAT, and the others, which touch the operand
registers alone (R53, R54). -/
theorem hostWrite_address_cases (a : HAddr) (v : Byte) (s : State) :
    (0x100 ≤ a.toNat ∧ hostWrite a v s = writeBuf (a.extractLsb' 0 8) v s) ∨
    (a = 0x000#9 ∧ hostWrite a v s = setOvr s) ∨
    (a = 0x005#9 ∧ hostWrite a v s = writeSstat v s) ∨
    (a.toNat < 0x100 ∧ a ≠ 0x000#9 ∧ a ≠ 0x005#9 ∧
      (hostWrite a v s = s ∨ hostWrite a v s = setCmdA v s ∨ hostWrite a v s = setCmdB v s ∨
        hostWrite a v s = setCmdF v s)) := by
  by_cases ha : 0x100 ≤ a.toNat
  · exact .inl ⟨ha, by unfold hostWrite; rw [if_pos ha]⟩
  by_cases h0 : a = 0x000#9
  · exact .inr (.inl ⟨h0, by rw [h0]; rfl⟩)
  by_cases h5 : a = 0x005#9
  · exact .inr (.inr (.inl ⟨h5, by rw [h5]; rfl⟩))
  refine .inr (.inr (.inr ⟨Nat.lt_of_not_le ha, h0, h5, ?_⟩))
  unfold hostWrite
  rw [if_neg ha]
  split
  · next h => exact absurd (BitVec.eq_of_toNat_eq h) h0
  · exact .inr (.inl rfl)
  · exact .inr (.inr (.inl rfl))
  · exact .inr (.inr (.inr rfl))
  · next h => exact absurd (BitVec.eq_of_toNat_eq h) h5
  · exact .inl rfl

theorem writeBuf_busy {s : State} (hb : s.busy = true) (i v : Byte) : writeBuf i v s = setOvr s := by
  unfold writeBuf; rw [hb]; rfl

theorem writeBuf_idle {s : State} (hb : s.busy = false) (i v : Byte) : writeBuf i v s = setBufAt i v s := by
  unfold writeBuf; rw [hb]; rfl

/-- A write of CMD_OP or BUF while BUSY = 1 is dropped and recorded (R30). -/
theorem hostWrite_dropped {a : HAddr} {s : State} (v : Byte) (hb : s.busy = true)
    (ha : a = 0x000#9 ∨ 0x100 ≤ a.toNat) : hostWrite a v s = setOvr s := by
  rcases hostWrite_address_cases a v s with ⟨-, e⟩ | ⟨-, e⟩ | ⟨rfl, -⟩ | ⟨hlt, h0, -, -⟩
  · rw [e, writeBuf_busy hb]
  · exact e
  · exact absurd ha (by decide)
  · exact (ha.elim h0 (Nat.not_le.mpr hlt)).elim

/-- BUF after a host write: only an idle block takes the byte, at the index the address names (R53). -/
theorem hostWrite_buf (a : HAddr) (v : Byte) (s : State) :
    (hostWrite a v s).buf = s.buf ∨
    (s.busy = false ∧ 0x100 ≤ a.toNat ∧ (hostWrite a v s).buf = memWrite s.buf (a.extractLsb' 0 8).toNat v) := by
  rcases hostWrite_address_cases a v s with ⟨ha, e⟩ | ⟨-, e⟩ | ⟨-, e⟩ | ⟨-, -, -, e | e | e | e⟩
  case inl =>
    rw [e]
    cases hb : s.busy with
    | true => rw [writeBuf_busy hb]; exact .inl rfl
    | false => rw [writeBuf_idle hb]; exact .inr ⟨rfl, ha, rfl⟩
  all_goals rw [e]; exact .inl rfl

/-- NAK after a host write (R27). -/
theorem hostWrite_nak (a : HAddr) (v : Byte) (s : State) :
    (hostWrite a v s).nak = (s.nak && !(a == 0x005#9 && v.getLsbD 1)) := by
  rcases hostWrite_address_cases a v s with ⟨ha, e⟩ | ⟨h0, e⟩ | ⟨h5, e⟩ | ⟨-, -, h5, e | e | e | e⟩
  case inl =>
    have h5 : a ≠ 0x005#9 := by rintro rfl; exact absurd ha (by decide)
    rw [e]
    cases hb : s.busy with
    | true => rw [writeBuf_busy hb]; simp [h5]
    | false => rw [writeBuf_idle hb]; simp [h5]
  all_goals rw [e]; simp [*]

/-- OVR after a host write that launches nothing (R27, R30). -/
theorem hostWrite_ovr {a : HAddr} {s : State} (v : Byte) (hn : a ≠ 0x000#9 ∨ s.busy = true) :
    (hostWrite a v s).ovr =
      if s.busy && (a == 0x000#9 || decide (0x100 ≤ a.toNat)) then true
      else s.ovr && !(a == 0x005#9 && v.getLsbD 2) := by
  by_cases hd : s.busy = true ∧ (a = 0x000#9 ∨ 0x100 ≤ a.toNat)
  · rw [hostWrite_dropped v hd.1 hd.2, if_pos (by simpa using hd)]
    rfl
  rw [if_neg (by simpa using hd)]
  rcases hostWrite_address_cases a v s with ⟨ha, e⟩ | ⟨h0, e⟩ | ⟨h5, e⟩ | ⟨-, -, h5, e | e | e | e⟩
  case inl =>
    have h5 : a ≠ 0x005#9 := by rintro rfl; exact absurd ha (by decide)
    have hb : s.busy = false := by simpa using fun hb => hd ⟨hb, .inr ha⟩
    rw [e, writeBuf_idle hb]
    simp [h5]
  case inr.inl => exact absurd ⟨hn.resolve_left (absurd h0), .inl h0⟩ hd
  all_goals rw [e]; simp [*]

end Sys2Proof.Machine

namespace Sys2Proof.Claim
open Sys2Proof.Machine

/-- Settles O37: in S_FAULT a BLOCK or ENV move makes no step, a host access leaves SCH, PEND, BPH, LC, BUF and the
trace, and a reset goes to S_IDLE. -/
theorem onlyResetLeavesFault : Obligations.OnlyResetLeavesFault := by
  unfold Obligations.OnlyResetLeavesFault
  intro s m rest hs hp hm
  have hb : s.busy = true := by unfold State.busy; rw [hs]
  have hblock : moveStep .block (withMoves rest s) = .next (withMoves rest s) := by
    simp [moveStep, runningStep, hs]
  have henv : ∀ r, moveStep (.env r) (withMoves rest s) = .next (withMoves rest s) := fun r => by
    simp [moveStep, envStep, hs]
  have hwrite : ∀ a v, moveStep (.hostWrite a v) (withMoves rest s) = .next (hostWrite a v (withMoves rest s)) :=
    fun a v => hostWriteStep_other v (.inr (by simp [hs]))
  rw [step_cons hm]
  refine ⟨hb, (flt_eq_true_iff s).mpr hs, ?_, ?_, ?_, ?_, ?_⟩
  · rintro rfl; exact hblock
  · rintro r rfl; exact henv r
  · rintro a v rfl ha
    rw [hwrite, hostWrite_dropped v (s := withMoves rest s) hb ha]
    rfl
  · intro t ht
    cases m with
    | hostRead a => cases ht; exact .inl ⟨hs, rfl, hp, rfl, rfl, rfl, rfl⟩
    | hostWrite a v =>
      rw [hwrite] at ht
      cases ht
      refine .inl ⟨by simpa using hs, by simp, by simpa using hp, by simp, ?_, by simp, by simp⟩
      rcases hostWrite_buf a v (withMoves rest s) with e | ⟨hidle, -⟩
      · exact e
      · exact absurd (hb.symm.trans hidle) (by decide)
    | block => rw [hblock] at ht; cases ht; exact .inl ⟨hs, rfl, hp, rfl, rfl, rfl, rfl⟩
    | env r => rw [henv] at ht; cases ht; exact .inl ⟨hs, rfl, hp, rfl, rfl, rfl, rfl⟩
    | rst bytes => cases ht; exact .inr ⟨bytes, rfl, rfl⟩
  · rintro bytes rfl
    exact ⟨_, rfl, rfl⟩

end Sys2Proof.Claim
end

section
/-! PROOFS. What changes each piece of state (10_state.md R23 to R42): one case analysis of the step for each. -/

namespace Sys2Proof.Machine

section
variable (op : Op) (i : Byte) (a : Action) (s : State)

@[simp] theorem blockAction_cmdOp : (blockAction op i a s).cmdOp = s.cmdOp := by
  cases a <;> simp [blockAction]
@[simp] theorem blockAction_lc : (blockAction op i a s).lc = s.lc := by
  cases a <;> simp [blockAction]
@[simp] theorem blockAction_nak : (blockAction op i a s).nak = s.nak := by
  cases a <;> simp [blockAction]
@[simp] theorem blockAction_ovr : (blockAction op i a s).ovr = s.ovr := by
  cases a <;> simp [blockAction]
@[simp] theorem blockAction_errcode : (blockAction op i a s).errcode = s.errcode := by
  cases a <;> simp [blockAction]
@[simp] theorem blockAction_buf : (blockAction op i a s).buf = s.buf := by
  cases a <;> simp [blockAction]
@[simp] theorem blockAction_params : (blockAction op i a s).params = s.params := by
  cases a <;> simp [blockAction]

end

/-- A byte of BUF that a write changes is the byte written. -/
theorem memWrite_changes {m : List Host.Cell} (hm : Memory.wf m = true) {i j v : Byte}
    (h : memRead (memWrite m i.toNat v) j.toNat ≠ memRead m j.toNat) :
    j = i ∧ memRead (memWrite m i.toNat v) j.toNat = v := by
  by_cases hj : j = i
  · subst hj
    exact ⟨rfl, memRead_memWrite_same _ _ hm⟩
  · exact absurd (memRead_memWrite_other v fun e => hj (BitVec.eq_of_toNat_eq e)) h

/-- The completion action of a written byte has `nak(r)` exactly in an E command outside the poll (R29, R133, R134). -/
theorem write_label_nak {c : Instr} {s : State} {l : Label} {i : Byte} {p : Prim} {after : After}
    (ha : tableOf c s l i = some (.issue p after))
    (hp : (∃ sla dir, p = .txaddr sla dir) ∨ ∃ b, p = .txbyte b) : after.nak = (c.op.isE && l != .w1) := by
  cases c <;> cases l <;> cases ha
  case eWrpage.b3.refl => split <;> rfl
  all_goals simp [sendSlaW, sendSlaR, andThen, nakThen, toEnd, Instr.op, Op.isE] at hp ⊢

/-- A write of CMD_OP in S_IDLE is a rejected or an accepted launch (R84). -/
theorem StepCase.launch {s t u : State} {v : Byte} (h : StepCase s (.hostWrite 0x000#9 v) u t) (hs : s.sch = .idle) :
    (∃ code, code ≠ .none ∧ t = reject code (setCmdOp v u)) ∨ ∃ c : Instr, t = accept c.op (setCmdOp v u) := by
  cases h
  case writes a w hm hn =>
    cases hm
    exact (hn.elim (· rfl) (· hs)).elim
  case rejects w code hm _ hc =>
    cases hm
    exact .inl ⟨code, hc, rfl⟩
  case accepts w c hm _ _ _ _ =>
    cases hm
    exact .inr ⟨c, rfl⟩
  case rests _ hm => simp at hm
  all_goals cases ‹Move.hostWrite 0x000#9 v = _›

end Sys2Proof.Machine

namespace Sys2Proof.Claim
open Sys2Proof.Machine

/-- Settles O38: RESULT is written by the BLOCK step of P.STATUS and by a stored byte whose destination is RESULT. -/
theorem onlyResultCommandsWriteResult : Obligations.OnlyResultCommandsWriteResult := by
  unfold Obligations.OnlyResultCommandsWriteResult
  intro s t hI h hne
  obtain rfl | ⟨m, rest, hm, hc⟩ := step_changes hI h
  · exact absurd rfl hne
  refine ⟨m, rest, hm, ?_⟩
  cases hc
  case blocks l i c a hmv hp hs hr ha =>
    cases a with
    | readStatus =>
      obtain ⟨rfl, rfl⟩ := readStatus_label ha
      exact .inl ⟨hmv, ⟨i, hs⟩, rfl⟩
    | _ => exact absurd rfl hne
  case completes l i c p after r d hmv hp hs hr ha hw hd =>
    rcases storeByte_result after.dest r
      (recordNak after.nak r (completed (p.busOp s.bph) d (withMoves rest s))) with e | ⟨v, hdest, rfl, e⟩
    · exact absurd e hne
    · refine .inr (.inl ⟨v, hmv, ?_, e⟩)
      rcases result_label ha hdest with ⟨ho, rfl⟩ | ⟨ho, rfl⟩ <;> rw [ho] at hs
      · exact .inl ⟨i, hs⟩
      · exact .inr ⟨i, hs⟩
  case resets bytes hmv => exact .inr (.inr ⟨bytes, hmv, rfl⟩)
  all_goals exact absurd (by simp) hne

/-- Settles O39: BUF is written by a host write of an idle block and by a stored byte whose destination is BUF, each at the
index it names. -/
theorem onlyHostAndRdseqWriteBuf : Obligations.OnlyHostAndRdseqWriteBuf := by
  unfold Obligations.OnlyHostAndRdseqWriteBuf State.bufAt
  intro s t j hI h hne
  obtain rfl | ⟨m, rest, hm, hc⟩ := step_changes hI h
  · exact absurd rfl hne
  refine ⟨m, rest, hm, ?_⟩
  cases hc
  case writes a v hmv hn =>
    rcases hostWrite_buf a v (withMoves rest s) with e | ⟨hb, ha, e⟩ <;> rw [e] at hne ⊢
    · exact absurd rfl hne
    · obtain ⟨rfl, hv⟩ := memWrite_changes hI.bufWf hne
      refine .inl ⟨a, v, hmv, ?_, hb, hv⟩
      simp
      omega
  case completes l i c p after r d hmv hp hs hr ha hw hd =>
    rcases storeByte_buf after.dest r
      (recordNak after.nak r (completed (p.busOp s.bph) d (withMoves rest s))) with e | ⟨k, v, hdest, rfl, e⟩ <;>
      rw [goto_buf, e] at hne ⊢
    · exact absurd rfl hne
    · obtain ⟨rfl, hv⟩ := memWrite_changes hI.bufWf hne
      refine .inr (.inl ⟨v, i, hmv, hv, ?_⟩)
      obtain ⟨a, n, rfl, ⟨rfl, rfl⟩ | ⟨rfl, rfl⟩⟩ := buf_label ha hdest
      · exact .inl ⟨hs, rfl⟩
      · obtain ⟨-, hc⟩ := op_of_decode hr.latched
        cases hc
        exact .inr ⟨hs, rfl⟩
  case resets bytes hmv => exact .inr (.inr ⟨bytes, hmv⟩)
  all_goals exact absurd (by simp) hne

/-- Settles O40: the latch is written by an acceptance, the clock by the BLOCK step of P.INIT, the parameters by nothing. -/
theorem onlyLaunchWritesLatchOnlyInitWritesClock : Obligations.OnlyLaunchWritesLatchOnlyInitWritesClock := by
  unfold Obligations.OnlyLaunchWritesLatchOnlyInitWritesClock
  intro s t hI h
  obtain rfl | ⟨m, rest, hm, hc⟩ := step_changes hI h
  · simp
  refine ⟨?_, fun hne => ⟨m, rest, hm, ?_⟩, fun hne => ⟨m, rest, hm, ?_⟩⟩
  · cases hc <;> simp
  · cases hc
    case accepts v c hmv hs hd hz hl => exact .inl ⟨v, hmv, hs, rfl, rfl⟩
    case resets bytes hmv => exact .inr ⟨bytes, hmv⟩
    all_goals exact absurd (by simp) hne
  · cases hc
    case blocks l i c a hmv hp hs hr ha =>
      cases a with
      | init r b =>
        obtain ⟨rfl, rfl⟩ := init_label ha
        obtain ⟨-, hc⟩ := op_of_decode hr.latched
        cases hc
        exact .inl ⟨hmv, ⟨i, hs⟩, rfl, rfl⟩
      | _ => simp [blockAction] at hne
    case resets bytes hmv => exact .inr ⟨bytes, hmv⟩
    all_goals simp at hne

/-- Settles O41: only a completion writes BPH, and the phase the primitive was issued in is one that admits it. -/
theorem busPhaseFollowsItsEdges : Obligations.BusPhaseFollowsItsEdges := by
  unfold Obligations.BusPhaseFollowsItsEdges
  intro s t hI h hne
  obtain rfl | ⟨m, rest, hm, hc⟩ := step_changes hI h
  · exact absurd rfl hne
  refine ⟨m, rest, hm, ?_⟩
  cases hc
  case completes l i c p after r d hmv hp hs hr ha hw hd =>
    have hseq := issue_inSequence hr.phase ha
    simp only [goto_bph, storeByte_bph, recordNak_bph, completed_bph] at hne ⊢
    rcases completes_cases hd with ⟨rfl, rfl, hb⟩ | ⟨rfl, rfl, hb, -⟩ | ⟨sla, dir, a, rfl, rfl, hb, -⟩ |
      ⟨b, a, rfl, rfl, hb⟩ | ⟨k, v, rfl, rfl, hb⟩
    · exact .inl ⟨_, hmv, hp, hb⟩
    · exact .inr (.inr (.inr (.inl ⟨hmv, hp, by simpa [Prim.inSequence] using hseq, hb⟩)))
    · have haddr : s.bph = .addr := by simpa [Prim.inSequence] using hseq
      cases dir
      · exact .inr (.inl ⟨_, a, hmv, hp, haddr, by rw [hb]; cases a <;> rfl⟩)
      · exact .inr (.inr (.inl ⟨_, a, hmv, hp, haddr, by rw [hb]; cases a <;> rfl⟩))
    · exact absurd hb hne
    · exact absurd hb hne
  case resets bytes hmv => exact .inr (.inr (.inr (.inr ⟨bytes, hmv, rfl⟩)))
  all_goals exact absurd (by simp) hne

/-- Settles O42: from S_IDLE only an acceptance leaves, and to S_IDLE only the label END and a reset lead. -/
theorem busyRisesAtLaunchAndFallsAtEnd : Obligations.BusyRisesAtLaunchAndFallsAtEnd := by
  unfold Obligations.BusyRisesAtLaunchAndFallsAtEnd
  intro s t hI h
  obtain rfl | ⟨m, rest, hm, hc⟩ := step_changes hI h
  · exact ⟨fun hf ht => absurd (hf.symm.trans ht) (by decide), fun ht hf => absurd (hf.symm.trans ht) (by decide)⟩
  rw [← Bool.not_eq_false (t.busy), ← Bool.not_eq_false (s.busy), busy_eq_false_iff, busy_eq_false_iff]
  refine ⟨fun hs ht => ?_, fun hs ht => ⟨m, rest, hm, ?_⟩⟩
  · cases hc
    case accepts v c hmv hs hd hz hl => exact ⟨v, rest, c, by rw [hm, hmv], hd, hl, rfl, rfl⟩
    case blocks l i c a hmv hp hs' hr ha => rw [hs] at hs'; cases hs'
    case completes l i c p after r d hmv hp hs' hr ha hw hd => rw [hs] at hs'; cases hs'
    case faults l i c p after r f hmv hp hs' hr ha hf => rw [hs] at hs'; cases hs'
    case resets => exact absurd rfl ht
    all_goals exact absurd (by simpa using hs) ht
  · cases hc
    case blocks l i c a hmv hp hs' hr ha =>
      cases a with
      | finish =>
        obtain rfl := finish_label ha
        exact .inl ⟨hmv, _, _, hs'⟩
      | issue p after => exact absurd ht hs
      | _ => cases ht
    case resets bytes hmv => exact .inr ⟨bytes, hmv⟩
    case completes => cases ht
    case faults => cases ht
    case accepts => cases ht
    all_goals exact absurd (by simpa using ht) hs

/-- Settles O43: NAK is set by a completion whose action has `nak(r)`, and such an action stands at the writes of an E command
outside the poll. -/
theorem nakRecordsUnpolledNotAcknowledge : Obligations.NakRecordsUnpolledNotAcknowledge := by
  unfold Obligations.NakRecordsUnpolledNotAcknowledge
  intro s t m rest hI hm h
  cases step_cases hI hm h with
  | reads a hmv => subst hmv; rfl
  | writes a v hmv hn => subst hmv; exact hostWrite_nak a v _
  | rejects v code hmv hs hc => subst hmv; simp
  | accepts v c hmv hs hd hz hl => subst hmv; simp
  | rests hs hmv =>
    obtain rfl | ⟨r, rfl⟩ := hmv
    · rfl
    · cases r <;> rcases hs with hs | hs <;> simp [hs]
  | waits q hp hmv => subst hmv; rfl
  | unasked r hp hmv => subst hmv; cases r <;> simp [hp]
  | blocks l i c a hmv hp hs hr ha => subst hmv; simp
  | completes l i c p after r d hmv hp hs hr ha hw hd =>
    subst hmv
    simp only [goto_nak, storeByte_nak, recordNak_nak, completed_nak, withMoves_nak, hs, hp]
    rcases completes_cases hd with ⟨rfl, rfl, -⟩ | ⟨rfl, rfl, -⟩ | ⟨sla, dir, a, rfl, rfl, -⟩ |
      ⟨b, a, rfl, rfl, -⟩ | ⟨k, v, rfl, rfl, -⟩
    · simp
    · simp
    · have hn := write_label_nak ha (.inl ⟨sla, dir, rfl⟩)
      cases a <;> simp [ackOf, hn, Prim.busOp]
    · have hn := write_label_nak ha (.inr ⟨b, rfl⟩)
      cases a <;> simp [ackOf, hn, Prim.busOp]
    · simp
  | faults l i c p after r f hmv hp hs hr ha hf =>
    subst hmv
    cases r
    case nack => cases hq : p.busOp s.bph <;> rw [hq] at hf <;> cases hf
    all_goals rfl
  | ignores q r hmv hp hn =>
    subst hmv
    cases r
    case nack =>
      cases q
      case write => cases hn
      all_goals simp [hp]
    all_goals rfl
  | resets bytes hmv => subst hmv; rfl

/-- Settles O44: OVR and CMD_OP are written by host writes and reset alone. -/
theorem ovrRecordsDroppedWrites : Obligations.OvrRecordsDroppedWrites := by
  unfold Obligations.OvrRecordsDroppedWrites
  intro s t m rest hI hm h
  cases step_cases hI hm h with
  | reads a hmv => subst hmv; exact ⟨rfl, rfl⟩
  | writes a v hmv hn =>
    subst hmv
    have hb : a ≠ 0x000#9 ∨ s.busy = true := by rwa [← Bool.not_eq_false, busy_eq_false_iff]
    refine ⟨hostWrite_ovr v (s := withMoves rest s) hb, ?_⟩
    have hkeep : (a == 0x000#9 && !s.busy) = false := by rcases hb with ha | hb <;> simp [*]
    simp [hkeep]
  | rejects v code hmv hs hc =>
    subst hmv
    simp [(busy_eq_false_iff s).mpr hs]
  | accepts v c hmv hs hd hz hl =>
    subst hmv
    simp [(busy_eq_false_iff s).mpr hs]
  | rests hs hmv => obtain rfl | ⟨r, rfl⟩ := hmv <;> exact ⟨rfl, rfl⟩
  | waits q hp hmv => subst hmv; exact ⟨rfl, rfl⟩
  | unasked r hp hmv => subst hmv; exact ⟨rfl, rfl⟩
  | blocks l i c a hmv hp hs hr ha => subst hmv; simp
  | completes l i c p after r d hmv hp hs hr ha hw hd => subst hmv; simp
  | faults l i c p after r f hmv hp hs hr ha hf => subst hmv; exact ⟨rfl, rfl⟩
  | ignores q r hmv hp hn => subst hmv; exact ⟨rfl, rfl⟩
  | resets bytes hmv => subst hmv; exact ⟨rfl, rfl⟩

/-- Settles O45: a launch writes ERRCODE with the outcome, and no other step but a reset writes it. -/
theorem errcodeIsTheLastLaunchOutcome : Obligations.ErrcodeIsTheLastLaunchOutcome := by
  unfold Obligations.ErrcodeIsTheLastLaunchOutcome
  intro s t m rest hI hm h
  rw [busy_eq_false_iff]
  refine ⟨?_, ?_, ?_⟩
  · rintro ⟨⟨v, rfl⟩, hs⟩
    rcases (step_cases hI hm h).launch hs with ⟨code, hc, rfl⟩ | ⟨c, rfl⟩
    · have hb : s.busy = false := (busy_eq_false_iff s).mpr hs
      exact ⟨fun e => absurd e hc, fun e => absurd (hb.symm.trans e) (by decide)⟩
    · exact ⟨fun _ => rfl, fun _ => rfl⟩
  · intro hn hr
    cases step_cases hI hm h with
    | rejects v code hmv hs hc => exact absurd ⟨⟨v, hmv⟩, hs⟩ hn
    | accepts v c hmv hs hd hz hl => exact absurd ⟨⟨v, hmv⟩, hs⟩ hn
    | resets bytes hmv => exact absurd hmv (hr bytes)
    | _ => simp
  · rintro bytes rfl
    rw [step_cons hm] at h
    cases h
    rfl

end Sys2Proof.Claim
end

section
/-! PROOFS. The running command does not read the staging registers, the SSTAT flags or the log of reads (10_state.md R24, R25; 20_memory.md R63): a step commutes with replacing them. -/

namespace Sys2Proof.Machine

/-- `s` with the command registers, OVR, ERRCODE and the log of reads of `w`, and NAK as `n` says. -/
def restaged (w : State) (n : Bool) (s : State) : State :=
  { s with
    cmdOp := w.cmdOp, cmdA := w.cmdA, cmdB := w.cmdB, cmdF := w.cmdF
    nak := n, ovr := w.ovr, errcode := w.errcode, reads := w.reads }

variable {w s t : State} {n : Bool}

@[simp] theorem restaged_lc : (restaged w n s).lc = s.lc := rfl
@[simp] theorem restaged_pend : (restaged w n s).pend = s.pend := rfl
@[simp] theorem restaged_sch : (restaged w n s).sch = s.sch := rfl
@[simp] theorem restaged_answer : (restaged w n s).answer = s.answer := rfl
theorem restaged_tableOf (c : Instr) : tableOf c (restaged w n s) = tableOf c s := tableOf_congr c rfl rfl

theorem blockAction_restaged (op : Op) (i : Byte) (a : Action) :
    blockAction op i a (restaged w n s) = restaged w n (blockAction op i a s) := by
  cases a <;> rfl

theorem storeByte_restaged (dest : Dest) (r : Response) :
    storeByte dest r (restaged w n s) = restaged w n (storeByte dest r s) := by
  cases dest <;> cases r <;> rfl

/-- A completion reads none of the replaced fields; NAK alone builds on what it was (R29). -/
theorem envAction_restaged (op : Op) (after : After) (q : BusOp) (r : Response) :
    ∃ n', envAction op after q r (restaged w n s) = restaged w n' (envAction op after q r s) := by
  rcases envAction_cases op after q r s with ⟨d, hd, e⟩ | ⟨f, hf, e⟩ | ⟨hn, e⟩ <;> rw [e]
  · refine ⟨n || (after.nak && r == .nack), ?_⟩
    rw [envAction_completes (s := restaged w n s) hd]
    exact congrArg (goto op after.next after.i)
      (storeByte_restaged (s := recordNak after.nak r (completed q d s)) after.dest r)
  · exact ⟨n, envAction_faults (s := restaged w n s) hf⟩
  · refine ⟨n, ?_⟩
    unfold envAction
    rw [show answered q r (restaged w n s).bph (restaged w n s).twdr = .notAResponse from hn]
    rfl

theorem tableStep_restaged {op : Op} {i : Byte} {act : Option Action} (h : tableStep op i act s = .next t) :
    ∃ n', tableStep op i act (restaged w n s) = .next (restaged w n' t) := by
  obtain _ | a := act
  · cases h
  rcases tableStep_cases h with ⟨a', ha', hp, ha, rfl⟩ | ⟨hp, ha, rfl⟩ | ⟨hp, ha, ht⟩ |
    ⟨p, after, q, r, hact, hp, ha, rfl⟩
  · cases ha'
    exact ⟨n, by rw [tableStep_block (s := restaged w n s) hp ha, blockAction_restaged]⟩
  · obtain ⟨r, hr⟩ := Option.ne_none_iff_exists'.mp ha
    refine ⟨n, ?_⟩
    simp only [tableStep, restaged_pend, restaged_answer, hp, hr]
    rfl
  · obtain ⟨q, hq⟩ := Option.ne_none_iff_exists'.mp hp
    exact ⟨n, by rw [ht]; exact tableStep_waits (s := restaged w n s) hq ha⟩
  · cases hact
    obtain ⟨n', e⟩ := envAction_restaged (w := w) (s := s) (n := n) op after q r
    exact ⟨n', by rw [tableStep_env (s := restaged w n s) hp ha, e]⟩

/-- A step of a running command commutes with the replacement; a launch, which reads the staged word, is left out. -/
theorem exec_restaged {c : Instr} (hs : s.sch ≠ .idle) (h : exec c s = .next t) :
    ∃ n', exec c (restaged w n s) = .next (restaged w n' t) := by
  cases hc : s.sch with
  | idle => exact absurd hc hs
  | fault =>
    rw [exec_fault hc] at h
    cases h
    exact ⟨n, exec_fault hc⟩
  | run op l i =>
    by_cases ho : op = c.op
    · subst ho
      rw [exec_run hc] at h
      rw [exec_run (s := restaged w n s) hc, restaged_tableOf]
      exact tableStep_restaged h
    · simp [exec_eq, command, hc, ho] at h

theorem runningStep_restaged (h : runningStep s = .next t) :
    ∃ n', runningStep (restaged w n s) = .next (restaged w n' t) := by
  unfold runningStep at *
  rw [restaged_sch, restaged_lc]
  split at h
  · cases h; exact ⟨n, rfl⟩
  · cases h; exact ⟨n, rfl⟩
  · next hs =>
    split at h
    · exact exec_restaged (by rw [hs]; exact nofun) h
    · cases h
    · cases h

theorem envStep_restaged {r : Response} (h : envStep r s = .next t) :
    ∃ n', envStep r (restaged w n s) = .next (restaged w n' t) := by
  unfold envStep at *
  rw [restaged_sch, restaged_pend]
  split at h
  · exact runningStep_restaged (s := answering r s) h
  · cases h; exact ⟨n, rfl⟩

end Sys2Proof.Machine

namespace Sys2Proof.Claim
open Sys2Proof.Machine

/-- Settles O47: the BLOCK and the ENV step commute with the replacement of the staging registers, the flags and the log
of reads. -/
theorem stagingNeverReachesARunningCommand : Obligations.StagingNeverReachesARunningCommand := by
  unfold Obligations.StagingNeverReachesARunningCommand
  intro s t m rest op a b f n o e rd hb hm hmv h
  rw [step_cons hm] at h
  let w : State := { s with cmdOp := op, cmdA := a, cmdB := b, cmdF := f, ovr := o, errcode := e, reads := rd }
  have hstep : step (restaged w n s) = moveStep m (restaged w n (withMoves rest s)) :=
    step_cons (s := restaged w n s) hm
  obtain rfl | ⟨r, rfl⟩ := hmv
  · obtain ⟨n', h'⟩ := runningStep_restaged (w := w) (n := n) h
    exact ⟨n', hstep.trans h'⟩
  · obtain ⟨n', h'⟩ := envStep_restaged (w := w) (n := n) h
    exact ⟨n', hstep.trans h'⟩

end Sys2Proof.Claim
end

section
/-! PROOFS. Host reads and host writes, address by address (20_memory.md R51 to R54). -/

namespace Sys2Proof.Machine

/-- The addresses 0x100 to 0x1FF name the BUF byte of their low eight bits (R51). -/
theorem address_of_buf_byte {h : HAddr} {i : Byte} (e : h.toNat = 0x100 + i.toNat) :
    0x100 ≤ h.toNat ∧ h.extractLsb' 0 8 = i := by
  refine ⟨by omega, BitVec.eq_of_toNat_eq ?_⟩
  rw [BitVec.extractLsb'_toNat]
  omega

theorem hostValue_buf {h : HAddr} {i : Byte} (e : h.toNat = 0x100 + i.toNat) (s : State) :
    hostValue h s = s.bufAt i := by
  obtain ⟨hge, rfl⟩ := address_of_buf_byte e
  unfold hostValue
  rw [if_pos hge]

/-- An address between the registers and BUF reads 0x00 (R54). -/
theorem hostValue_unassigned {h : HAddr} (hlo : 0x00A ≤ h.toNat) (hhi : h.toNat ≤ 0x0FF) (s : State) :
    hostValue h s = 0x00#8 := by
  unfold hostValue
  rw [if_neg (by omega)]
  split
  case h_11 => rfl
  all_goals omega

theorem step_hostRead {s : State} {h : HAddr} {rest : List Move} (hm : s.moves = .hostRead h :: rest) :
    step s = .next { s with moves := rest, reads := s.reads ++ [(h, hostValue h s)] } :=
  step_cons hm

/-- The step of a host write that launches nothing. -/
theorem step_hostWrite {s : State} {h : HAddr} {v : Byte} {rest : List Move} (hm : s.moves = .hostWrite h v :: rest)
    (hn : h ≠ 0x000#9 ∨ s.sch ≠ .idle) : step s = .next (hostWrite h v (withMoves rest s)) :=
  (step_cons hm).trans (hostWriteStep_other v (s := withMoves rest s) hn)

theorem hostWrite_bufByte {h : HAddr} {i : Byte} (e : h.toNat = 0x100 + i.toNat) (v : Byte) (s : State) :
    hostWrite h v s = writeBuf i v s := by
  obtain ⟨hge, rfl⟩ := address_of_buf_byte e
  unfold hostWrite
  rw [if_pos hge]

/-- RESULT, the bus registers and the unassigned addresses ignore a write (R53, R54). -/
theorem hostWrite_ignored {h : HAddr} (ha : h = 0x004#9 ∨ 0x006 ≤ h.toNat ∧ h.toNat ≤ 0x0FF) (v : Byte) (s : State) :
    hostWrite h v s = s := by
  obtain rfl | ⟨hlo, hhi⟩ := ha
  · rfl
  unfold hostWrite
  rw [if_neg (by omega)]
  split
  case h_6 => rfl
  all_goals omega

end Sys2Proof.Machine

namespace Sys2Proof.Claim
open Sys2Proof.Machine

/-- Settles O3: the step of a read appends the addressed value to the log of reads; each value by the address. -/
theorem hostReadReturnsTheRegister : Obligations.HostReadReturnsTheRegister := by
  unfold Obligations.HostReadReturnsTheRegister
  intro s h rest hm
  refine ⟨hostValue h s, step_hostRead hm, ?_, ?_, ?_, ?_, ?_, ?_, ?_, ?_, ?_, ?_,
    fun hlo hhi => hostValue_unassigned hlo hhi s, fun i e => hostValue_buf e s⟩
  all_goals
    rintro rfl
    rfl

/-- Settles O4: but for the launch, a host write is `hostWrite`, taken address by address; in BUF by BUSY, as
`writeBuf_busy` and `writeBuf_idle` say. -/
theorem hostWriteActsByAddress : Obligations.HostWriteActsByAddress := by
  unfold Obligations.HostWriteActsByAddress
  intro s h v rest hm
  have other (hn : h ≠ 0x000#9) : step s = .next (hostWrite h v (withMoves rest s)) := step_hostWrite hm (.inl hn)
  refine ⟨?_, ?_, ?_, ?_, ?_, fun ha => ?_, fun i e => ?_⟩
  · rintro rfl hb
    have hs : s.sch ≠ .idle := fun hs => absurd (hb.symm.trans ((busy_eq_false_iff s).mpr hs)) (by decide)
    exact step_hostWrite hm (.inr hs)
  · rintro rfl; exact other (by decide)
  · rintro rfl; exact other (by decide)
  · rintro rfl; exact other (by decide)
  · rintro rfl; exact other (by decide)
  · have hn : h ≠ 0x000#9 := by rintro rfl; revert ha; decide
    rw [other hn, hostWrite_ignored ha]
    rfl
  · have hn : h ≠ 0x000#9 := by rintro rfl; exact absurd (address_of_buf_byte e).1 (by decide)
    rw [other hn, hostWrite_bufByte e]
    refine ⟨fun hb => ?_, fun hb hwf => ?_⟩
    · rw [writeBuf_busy (s := withMoves rest s) hb]
      rfl
    · rw [writeBuf_idle (s := withMoves rest s) hb]
      exact ⟨memWrite s.buf i.toNat v, rfl, wf_memWrite i v hwf, memRead_memWrite_same _ _ hwf,
        fun a => memRead_memWrite_other v⟩

end Sys2Proof.Claim
end

section
/-! PROOFS. The decoder and the encoder (30_encoding.md R82 to R87, R94 to R96): each verdict as an equivalence over the fields of the word, and the word assembled from the operands that a word holds. -/

namespace Sys2Proof

/-- A format of must-be-zero bits that is the whole byte (R86). -/
theorem and_0xFF (b : Byte) : b &&& 0xFF#8 = b := BitVec.and_allOnes

/-- Bits 7:1 of a byte, must-be-zero in F of formats AD and K (R86). -/
theorem and_0xFE_eq_zero_iff : ∀ b : Byte, b &&& 0xFE#8 = 0#8 ↔ b.extractLsb' 1 7 = 0#7 := by decide +kernel

/-- Bits 7:3 of a byte, must-be-zero in B of format AP (R86). -/
theorem and_0xF8_eq_zero_iff : ∀ b : Byte, b &&& 0xF8#8 = 0#8 ↔ b.extractLsb' 3 5 = 0#5 := by decide +kernel

/-- A byte whose bits 7:1 are 0 is its bit 0. -/
theorem byte_of_low_bit : ∀ b : Byte, b &&& 0xFE#8 = 0#8 → 0#7 ++ BitVec.ofBool (b.getLsbD 0) = b := by
  decide +kernel

/-- A byte whose bits 7:3 are 0 is its bits 2:0. -/
theorem byte_of_low_three : ∀ b : Byte, b &&& 0xF8#8 = 0#8 → 0#5 ++ b.extractLsb' 0 3 = b := by decide +kernel

/-- Bytes that agree but for bit 0 are equal, or one is the other with bit 0 flipped. -/
theorem eq_or_eq_xor_one {a a' : Byte} (h : a &&& 0xFE#8 = a' &&& 0xFE#8) : a' = a ∨ a' = a ^^^ 1#8 := by
  have cleared : ∀ b : Byte, b = b &&& 0xFE#8 ∨ b = (b &&& 0xFE#8) ^^^ 1#8 := by decide +kernel
  rcases cleared a with ha | ha <;> rcases cleared a' with ha' | ha' <;> rw [← h] at ha' <;> grind

@[simp] theorem extractLsb'_addrByte : ∀ (sla : BitVec 7) (dir : Dir), (addrByte sla dir).extractLsb' 1 7 = sla := by
  intro sla dir
  cases dir <;> revert sla <;> decide +kernel

/-- The address byte of format AD is A with A[0] at 0 (R87, R94). -/
theorem addrByte_extractLsb' : ∀ a : Byte, addrByte (a.extractLsb' 1 7) .w = a &&& 0xFE#8 := by decide +kernel

@[simp] theorem dirOfBit_bit (dir : Dir) : dirOfBit dir.bit = dir := by cases dir <;> rfl

@[simp] theorem bit_dirOfBit (d : Bool) : (dirOfBit d).bit = d := by cases d <;> rfl

theorem getLsbD_low_bit (b : Bool) : (0#7 ++ BitVec.ofBool b : Byte).getLsbD 0 = b := by cases b <;> rfl

theorem extractLsb'_low_three : ∀ p : BitVec 3, (0#5 ++ p : Byte).extractLsb' 0 3 = p := by decide

/-- Words with the same four fields are equal (R80). -/
theorem cmdWord_ext {cw cw' : CmdWord} (hop : cwOp cw = cwOp cw') (ha : cwA cw = cwA cw') (hb : cwB cw = cwB cw')
    (hf : cwF cw = cwF cw') : cw = cw' := by
  rw [← cmdWordOf_fields cw, ← cmdWordOf_fields cw', hop, ha, hb, hf]

/-- The must-be-zero bits of a word in the format of `op` are 0 (R86). -/
def ReservedZero (op : Op) (cw : CmdWord) : Prop :=
  cwA cw &&& maskA op = 0#8 ∧ cwB cw &&& maskB op = 0#8 ∧ cwF cw &&& maskF op = 0#8

/-- A word decodes to a command exactly when it has the command's OP, its must-be-zero bits are 0, and its operand
bits are the command's. -/
theorem decode_eq_command_iff {cw : CmdWord} {c : Instr} :
    decode cw = .command c ↔ cwOp cw = c.op.byte ∧ ReservedZero c.op cw ∧ operands c.op cw = c := by
  constructor
  · intro h
    obtain ⟨hop, hc⟩ := op_of_decode h
    refine ⟨hop, ?_, hc.symm⟩
    by_contra hz
    rw [decode_of_op hop] at h
    cases (if_neg hz).symm.trans h
  · rintro ⟨hop, hz, hc⟩
    rw [decode_of_op hop, hc]
    exact if_pos hz

/-- A word is in no row exactly when its OP is none of the twelve bytes (R83). -/
theorem rowOf_eq_none_iff {cw : CmdWord} : rowOf cw = none ↔ cwOp cw ∉ ([0x01#8, 0x02#8, 0x03#8, 0x04#8, 0x05#8,
    0x06#8, 0x07#8, 0x10#8, 0x11#8, 0x12#8, 0x13#8, 0x14#8] : List Byte) := by
  unfold rowOf
  generalize cwOp cw = op
  revert op
  decide +kernel

/-- The word of a command has 0 at its must-be-zero bits (R96). -/
theorem reservedZero_encode (c : Instr) : ReservedZero c.op (encode c) := by
  unfold ReservedZero encode
  rw [cwA_cmdWordOf, cwB_cmdWordOf, cwF_cmdWordOf]
  cases c <;> simp [Instr.operandBytes, Instr.op, maskA, maskB, maskF, Laws.EncodingRow.low_bit]
  case pInit _ presc =>
    revert presc
    decide

/-- The operand bits of a command's word are the command's operands (R82, R96). -/
theorem operands_encode (c : Instr) : operands c.op (encode c) = c := by
  cases c <;>
    simp [operands, Instr.op, encode, Instr.operandBytes, extractLsb'_17_7, extractLsb'_8_3, getLsbD_zero_cw,
      getLsbD_low_bit, extractLsb'_low_three, -BitVec.getLsbD_eq_getElem]

/-- The word assembled from the operands of a word whose must-be-zero bits are 0: P.TXADDR's A[0] is cleared, and every
other bit is the word's (R87, R94). -/
theorem encode_operands {op : Op} {cw : CmdWord} (hop : cwOp cw = op.byte) (hz : ReservedZero op cw) :
    encode (operands op cw) = if op = .pTxaddr then cw &&& 0xFFFEFFFF#32 else cw := by
  obtain ⟨ha, hb, hf⟩ := hz
  rw [and_clear_bit16, hop]
  conv_rhs => enter [3]; rw [← cmdWordOf_fields cw, hop]
  cases op <;> simp only [maskA, maskB, maskF, and_0xFF] at ha hb hf
  all_goals simp [encode, operands, Instr.op, Instr.operandBytes, addrByte_extractLsb', extractLsb'_17_7,
    extractLsb'_8_3, getLsbD_zero_cw, ha, hb, hf, byte_of_low_three, byte_of_low_bit,
    -BitVec.getLsbD_eq_getElem]

end Sys2Proof

namespace Sys2Proof.Claim

/-- Settles O9: the word of a command has the command's OP, zeros at the must-be-zero bits, and its operands. -/
theorem decodeOfEncodeIsIdentity : Obligations.DecodeOfEncodeIsIdentity := fun c =>
  decode_eq_command_iff.mpr ⟨cwOp_cmdWordOf _ _ _ _, reservedZero_encode c, operands_encode c⟩

/-- Settles O6, by the bytes that stand in the map. -/
theorem illegalOpExactlyOutsideTheMap : Obligations.IllegalOpExactlyOutsideTheMap := by
  unfold Obligations.IllegalOpExactlyOutsideTheMap
  intro cw
  rw [decode_illegalOp_iff, rowOf_eq_none_iff]
  generalize cwOp cw = op
  revert op
  decide +kernel

/-- Settles O7: an OP in the map by its format, and no other OP is listed. -/
theorem reservedFieldExactlyMustBeZero : Obligations.ReservedFieldExactlyMustBeZero := by
  unfold Obligations.ReservedFieldExactlyMustBeZero
  intro cw
  rcases cwOp_cases cw with ⟨op, hop⟩ | hnone
  · rw [decode_of_op hop, hop]
    cases op <;> simp [Op.byte, maskA, maskB, maskF, and_0xFF, and_0xFE_eq_zero_iff, and_0xF8_eq_zero_iff]
  · rw [decode_illegalOp_iff.mpr hnone]
    simp only [rowOf_eq_none_iff, List.mem_cons, not_or] at hnone
    simp [hnone]

/-- Settles O10, by `encode_operands`. -/
theorem encodeOfDecodeClearsOnlyTheDontCare : Obligations.EncodeOfDecodeClearsOnlyTheDontCare := by
  unfold Obligations.EncodeOfDecodeClearsOnlyTheDontCare
  intro cw c h
  obtain ⟨hop, hz, hc⟩ := decode_eq_command_iff.mp h
  have htx : cwOp cw = 0x04#8 ↔ c.op = .pTxaddr := by
    rw [hop]
    cases c.op <;> decide
  simp only [htx]
  rw [← encode_operands hop hz, hc]

/-- Settles O8: flipping bit 16 keeps every field that P.TXADDR's decoding reads; and two words of one command have the
same assembled word, which clears at most bit 16. -/
theorem onlyDontCareBitIsTxaddrAZero : Obligations.OnlyDontCareBitIsTxaddrAZero := by
  unfold Obligations.OnlyDontCareBitIsTxaddrAZero
  refine ⟨fun cw hcw => ?_, fun cw cw' c h h' => ?_⟩
  · obtain ⟨hop, ha, hb, hf⟩ := xor_bit16_fields cw
    have hsla : (cwA cw ^^^ 1#8).extractLsb' 1 7 = (cwA cw).extractLsb' 1 7 := by
      rw [BitVec.extractLsb'_xor]
      exact BitVec.xor_zero
    rw [decode_of_op (op := .pTxaddr) hcw, decode_of_op (op := .pTxaddr) (hop.trans hcw), ha, hb, hf]
    simp only [maskA, BitVec.and_zero, operands, extractLsb'_17_7, getLsbD_zero_cw, ha, hf, hsla]
  · have hop : cwOp cw' = cwOp cw := (decode_eq_command_iff.mp h').1.trans (decode_eq_command_iff.mp h).1.symm
    have e := encodeOfDecodeClearsOnlyTheDontCare cw c h
    rw [encodeOfDecodeClearsOnlyTheDontCare cw' c h', hop] at e
    by_cases htx : cwOp cw = 0x04#8
    · rw [if_pos htx, if_pos htx, and_clear_bit16, and_clear_bit16, cmdWordOf_inj] at e
      obtain ⟨-, ha, hb, hf⟩ := e
      obtain ⟨xop, xa, xb, xf⟩ := xor_bit16_fields cw
      rcases eq_or_eq_xor_one ha.symm with ha | ha
      · exact .inl (cmdWord_ext hop.symm ha.symm hb.symm hf.symm)
      · exact .inr ⟨htx, cmdWord_ext (hop.trans xop.symm) (ha.trans xa.symm) (hb.trans xb.symm) (hf.trans xf.symm)⟩
    · rw [if_neg htx, if_neg htx] at e
      exact .inl e.symm

/-- Settles O11: each word is the assembled word of its command, P.TXADDR's second one with bit 16 set (R87). -/
theorem decodesWrittenOutWords : Obligations.DecodesWrittenOutWords :=
  have word {cw : CmdWord} {c : Instr} (h : encode c = cw) : decode cw = .command c := h ▸ decodeOfEncodeIsIdentity c
  ⟨word rfl, word rfl, word rfl, word rfl, (onlyDontCareBitIsTxaddrAZero.1 0x04A00001#32 rfl).trans (word rfl),
    word rfl, word rfl, word rfl, word rfl, word rfl, word rfl, word rfl, word rfl, word rfl⟩

end Sys2Proof.Claim
end

section
/-! PROOFS. The text layer (30_encoding.md R92 to R99): the tokens of a printed line, the number that printed digits write, and a line of a mnemonic with its operands. -/

namespace Sys2Proof.Asm

/-- A character that neither ends a word nor begins a character operand or a comment (R92). -/
def plain (c : Char) : Bool := c != ';' && c != ',' && c != quote && !isBlank c

/-- A word of plain characters. -/
abbrev Plain (w : List Char) : Prop := w ≠ [] ∧ w.all plain = true

/-- A plain character joins the word being read. -/
theorem tokens_plain {c : Char} (hc : plain c = true) (rest acc : List Char) :
    tokens (c :: rest) acc = tokens rest (c :: acc) := by
  simp only [plain, Bool.and_eq_true, bne_iff_ne, Bool.not_eq_true'] at hc
  obtain ⟨⟨⟨hsemi, hcomma⟩, hquote⟩, hblank⟩ := hc
  rcases rest with _ | ⟨d, _ | ⟨e, rest⟩⟩ <;> simp [tokens, hsemi, hcomma, hquote, hblank]

theorem tokens_space (rest acc : List Char) : tokens (' ' :: rest) acc = flush acc ++ tokens rest [] := by
  rcases rest with _ | ⟨d, _ | ⟨e, rest⟩⟩ <;> simp [tokens, isBlank, quote, flush]

theorem tokens_comma (rest acc : List Char) :
    tokens (',' :: rest) acc = flush acc ++ .comma :: tokens rest [] := by
  rcases rest with _ | ⟨d, _ | ⟨e, rest⟩⟩ <;> simp [tokens, isBlank, quote, flush]

theorem tokens_append {w : List Char} (hw : w.all plain = true) (rest acc : List Char) :
    tokens (w ++ rest) acc = tokens rest (w.reverse ++ acc) := by
  induction w generalizing acc with
  | nil => rfl
  | cons c w ih =>
    obtain ⟨hc, hw⟩ := (Bool.and_eq_true _ _).mp (List.all_cons.symm.trans hw)
    rw [List.cons_append, tokens_plain hc, ih hw, List.reverse_cons, List.append_assoc, List.singleton_append]

theorem flush_reverse {w : List Char} (hw : Plain w) : flush w.reverse = [.word w] := by
  simp [flush, hw.1]

theorem tokens_word {w : List Char} (hw : Plain w) : tokens w [] = [.word w] := by
  have h := tokens_append hw.2 [] []
  rw [List.append_nil, List.append_nil] at h
  rw [h]
  exact flush_reverse hw

theorem tokens_word_space {w : List Char} (hw : Plain w) (rest : List Char) :
    tokens (w ++ ' ' :: rest) [] = .word w :: tokens rest [] := by
  rw [tokens_append hw.2, List.append_nil, tokens_space, flush_reverse hw, List.singleton_append]

theorem tokens_word_comma {w : List Char} (hw : Plain w) (rest : List Char) :
    tokens (w ++ ',' :: rest) [] = .word w :: .comma :: tokens rest [] := by
  rw [tokens_append hw.2, List.append_nil, tokens_comma, flush_reverse hw, List.singleton_append]

/-- The word `w` writes the operand `o` (R92, R93). -/
def Writes (w : List Char) (o : Operand) : Prop := Plain w ∧ operand (.word w) = some o

section
variable {m : String} (hm : Plain m.toList)
include hm

/-- A line that is a mnemonic alone. -/
theorem parseLine_mnemonic : parseLine (String.ofList m.toList) = command m [] := by
  simp [parseLine, tokens_word hm, operandList]

/-- A line of a mnemonic and one operand. -/
theorem parseLine_one {w : List Char} {o : Operand} (ho : Writes w o) :
    parseLine (String.ofList (m.toList ++ " ".toList ++ w)) = command m [o] := by
  obtain ⟨hw, ho⟩ := ho
  simp [parseLine, tokens_word_space hm, tokens_word hw, operandList, ho]

/-- A line of a mnemonic and two operands. -/
theorem parseLine_two {w w' : List Char} {o o' : Operand} (ho : Writes w o) (ho' : Writes w' o') :
    parseLine (String.ofList (m.toList ++ " ".toList ++ w ++ ", ".toList ++ w')) = command m [o, o'] := by
  obtain ⟨hw, ho⟩ := ho
  obtain ⟨hw', ho'⟩ := ho'
  simp [parseLine, tokens_word_space hm, tokens_word_comma hw, tokens_space, flush, tokens_word hw', operandList,
    ho, ho']

end

/-! ### Printed numbers -/

theorem plain_hexChar (d : Nat) : plain (hexChar d) = true := by
  by_cases hd : d < 16
  · revert d
    decide
  · unfold hexChar
    rw [List.getD_eq_default _ _ (Nat.le_of_not_lt hd)]
    decide

@[simp] theorem number_nil (base n : Nat) : number base [] n = some n := rfl

/-- A printed digit is read as its value, and the number goes on (R92, R99). -/
theorem number_cons {base d : Nat} (hd : d < base) (hb : base ≤ 16) (rest : List Char) (n : Nat) :
    number base (hexChar d :: rest) n = number base rest (n * base + d) := by
  simp [number, hexDigit_hexChar d (hd.trans_le hb), hd]

/-- A word that is a decimal number is no keyword and no hexadecimal number (R92, R93). -/
theorem operand_of_number {w : List Char} {n : Nat} (hw : w ≠ []) (h : number 10 w 0 = some n) :
    operand (.word w) = some (.num n) := by
  have other (k : List Char) (hk : number 10 k 0 = none) : w ≠ k := by
    rintro rfl
    cases hk.symm.trans h
  unfold operand
  simp only [other ['W'] (by decide), other ['R'] (by decide), other "ACK".toList (by decide),
    other "NACK".toList (by decide), if_false]
  split
  · exact absurd rfl hw
  · next c rest =>
    have hx : hexDigit 'x' = none := by decide
    have h0 : hexDigit '0' = some 0 := by decide
    simp [number, hx, h0] at h
  · rw [h]
    rfl

theorem hexByte_eq (b : Byte) : hexByte b = ['0', 'x', hexChar (b.toNat / 16), hexChar (b.toNat % 16)] := by
  have h : b.toNat / 16 % 16 = b.toNat / 16 := by have := b.isLt; omega
  simp [hexByte, hexDigits, h]

theorem plain_hexByte (b : Byte) : Plain (hexByte b) := by
  rw [hexByte_eq]
  refine ⟨List.cons_ne_nil _ _, ?_⟩
  simp only [List.all_cons, plain_hexChar]
  decide

theorem operand_hexByte (b : Byte) : operand (.word (hexByte b)) = some (.num b.toNat) := by
  have := b.isLt
  have h : (0 * 16 + b.toNat / 16) * 16 + b.toNat % 16 = b.toNat := by omega
  rw [hexByte_eq]
  simp only [operand]
  rw [number_cons (by omega) (le_refl _), number_cons (by omega) (le_refl _), h]
  rfl

theorem plain_decNum (n : Nat) : Plain (decNum n) := by
  refine ⟨by simp [decNum], ?_⟩
  unfold decNum
  split <;> split <;> simp [plain_hexChar]

/-- The printed digits, leading zeros left out, write the number (R99). -/
theorem number_decNum {n : Nat} (hn : n < 256) : number 10 (decNum n) 0 = some n := by
  have ones := number_cons (base := 10) (d := n % 10) (by omega) (by decide)
  have tens := number_cons (base := 10) (d := n / 10 % 10) (by omega) (by decide)
  have hundreds := number_cons (base := 10) (d := n / 100) (by omega) (by decide)
  unfold decNum
  split <;> split <;> simp only [List.cons_append, List.nil_append, ones, tens, hundreds, number_nil, Option.some.injEq]
  all_goals omega

theorem writes_hexByte (b : Byte) : Writes (hexByte b) (.num b.toNat) := ⟨plain_hexByte b, operand_hexByte b⟩

theorem writes_decNum {n : Nat} (hn : n < 256) : Writes (decNum n) (.num n) :=
  ⟨plain_decNum n, operand_of_number (plain_decNum n).1 (number_decNum hn)⟩

/-! ### Operand checks -/

@[simp] theorem byteOf_toNat (b : Byte) : byteOf b.toNat = some b := by
  simp [byteOf, Nat.le_of_lt_succ b.isLt]

@[simp] theorem prescOf_toNat (p : BitVec 3) : prescOf p.toNat = some p := by
  simp [prescOf, Nat.le_of_lt_succ p.isLt]

/-- A length other than 0 passes its check (R94). -/
theorem lengthOf_toNat {n : Byte} (hn : n ≠ 0#8) : lengthOf n.toNat = some n := by
  have h : 1 ≤ n.toNat := by bv_omega
  simp [lengthOf, h]

@[simp] theorem slaOf_addrByte (sla : BitVec 7) (dir : Dir) : slaOf (addrByte sla dir).toNat = some sla := by
  simp [slaOf]

end Sys2Proof.Asm

namespace Sys2Proof.Claim
open Sys2Proof.Asm

/-- Settles O12: the line of each command is its mnemonic with none, one or two words, and each word writes its
operand. -/
theorem assemblerReadsTheDisassembly : Obligations.AssemblerReadsTheDisassembly := by
  unfold Obligations.AssemblerReadsTheDisassembly
  intro c hc
  cases c with
  | pStatus => exact parseLine_mnemonic (m := "P.STATUS") (by decide)
  | pStart => exact parseLine_mnemonic (m := "P.START") (by decide)
  | pStop => exact parseLine_mnemonic (m := "P.STOP") (by decide)
  | pTxaddr sla dir =>
    have line {w : List Char} (h : Writes w (.dir dir)) :=
      parseLine_two (m := "P.TXADDR") (by decide) (writes_hexByte (addrByte sla .w)) h
    have read : command "P.TXADDR" [.num (addrByte sla .w).toNat, .dir dir] = some (.pTxaddr sla dir) := by
      simp [command]
    cases dir with
    | w => exact (line (w := ['W']) ⟨by decide, rfl⟩).trans read
    | r => exact (line (w := ['R']) ⟨by decide, rfl⟩).trans read
  | pTxbyte data => exact (parseLine_one (m := "P.TXBYTE") (by decide) (writes_hexByte data)).trans (by simp [command])
  | pRxbyte ack =>
    have line {w : List Char} (h : Writes w (.ack ack)) := parseLine_one (m := "P.RXBYTE") (by decide) h
    cases ack with
    | true => exact line (w := "ACK".toList) ⟨by decide, rfl⟩
    | false => exact line (w := "NACK".toList) ⟨by decide, rfl⟩
  | pInit bitrate presc =>
    exact (parseLine_two (m := "P.INIT") (by decide) (writes_decNum bitrate.isLt) (writes_decNum (by omega))).trans
      (by simp [command])
  | eWrbyte maddr data =>
    exact (parseLine_two (m := "E.WRBYTE") (by decide) (writes_hexByte maddr) (writes_hexByte data)).trans
      (by simp [command])
  | eRdbyte maddr =>
    exact (parseLine_one (m := "E.RDBYTE") (by decide) (writes_hexByte maddr)).trans (by simp [command])
  | eWrpage maddr =>
    exact (parseLine_one (m := "E.WRPAGE") (by decide) (writes_hexByte maddr)).trans (by simp [command])
  | eRdseq maddr n =>
    have hn : n ≠ 0#8 := by simpa [Instr.wellFormed] using hc
    exact (parseLine_two (m := "E.RDSEQ") (by decide) (writes_hexByte maddr) (writes_decNum n.isLt)).trans
      (by simp [command, lengthOf_toNat hn])
  | eWaitrdy => exact parseLine_mnemonic (m := "E.WAITRDY") (by decide)

end Sys2Proof.Claim
end

section
/-! PROOFS. The launch (30_encoding.md R84, R88, R89): a write of CMD_OP check by check, the legal phases of each command, and the command that each step runs. -/

namespace Sys2Proof

/-- The row of a word is the one with the word's OP: no two rows share an OP (R83). -/
theorem rowOf_of_mem {cw : CmdWord} {r : Row} (hr : r ∈ opcodeMap) (hop : cwOp r.pattern = cwOp cw) :
    rowOf cw = some r := by
  have hrow : ∀ r ∈ opcodeMap, cwOp r.pattern = r.op.byte ∧ r.op.row = r := by decide
  obtain ⟨hbyte, hself⟩ := hrow r hr
  rw [rowOf_of_op (hop.symm.trans hbyte), hself]

theorem rowOf_eq_none {cw : CmdWord} (h : ∀ r ∈ opcodeMap, cwOp r.pattern ≠ cwOp cw) : rowOf cw = none :=
  List.find?_eq_none.mpr fun r hr => by simpa using h r hr

/-- A word with the OP of a row decodes by the mask of that row (R84, R86). -/
theorem decode_of_mem {cw : CmdWord} {r : Row} (hr : r ∈ opcodeMap) (hop : cwOp r.pattern = cwOp cw) :
    decode cw = if cw &&& r.mask = r.pattern then .command (operands r.op cw) else .reservedField := by
  unfold decode
  rw [rowOf_of_mem hr hop]

@[simp] theorem op_operands (op : Op) (cw : CmdWord) : (operands op cw).op = op := by cases op <;> rfl

end Sys2Proof

namespace Sys2Proof.Machine

/-- Of the twelve commands E.RDSEQ alone has a length, its operand byte B (R88). -/
theorem lengthZero_operands (op : Op) (cw : CmdWord) :
    lengthZero (operands op cw) = true ↔ op = .eRdseq ∧ cwB cw = 0#8 := by
  cases op <;> simp [operands, lengthZero]

theorem launch_lenZero {c : Instr} {s : State} (hz : lengthZero c = true) : launch c s = reject .lenZero s := by
  simp [launch, launchError, hz]

theorem launch_sequence {c : Instr} {s : State} (hz : lengthZero c = false) (hp : legalPhase c.op s.bph = false) :
    launch c s = reject .sequence s := by
  simp [launch, launchError, hz, hp]

theorem launch_accept {c : Instr} {s : State} (hz : lengthZero c = false) (hp : legalPhase c.op s.bph = true) :
    launch c s = accept c.op s := by
  simp [launch, launchError, hz, hp]

section
variable {s : State} {v : Byte} {rest : List Move}

/-- A write of CMD_OP while BUSY = 1 is dropped and recorded (R23, R30). -/
theorem step_cmdOp_busy (hm : s.moves = .hostWrite 0x000#9 v :: rest) (hb : s.busy = true) :
    step s = .next { s with moves := rest, ovr := true } := by
  have hs : s.sch ≠ .idle := fun hs => absurd (hb.symm.trans ((busy_eq_false_iff s).mpr hs)) (by decide)
  exact step_hostWrite hm (.inr hs)

theorem step_cmdOp_idle (hm : s.moves = .hostWrite 0x000#9 v :: rest) (hs : s.sch = .idle) :
    step s = launchWrite v (withMoves rest s) :=
  (step_cons hm).trans (hostWriteStep_launch v (s := withMoves rest s) hs)

end

section
variable {s : State} {v : Byte}

/-- The word that a write of CMD_OP launches (R80, R84). -/
@[simp] theorem cmdWord_setCmdOp : (setCmdOp v s).cmdWord = cmdWordOf v s.cmdA s.cmdB s.cmdF := rfl

theorem launchWrite_command {c : Instr} (h : decode (cmdWordOf v s.cmdA s.cmdB s.cmdF) = .command c) :
    launchWrite v s = exec c (setCmdOp v s) := by
  simp [launchWrite, h]

theorem launchWrite_illegalOp (h : decode (cmdWordOf v s.cmdA s.cmdB s.cmdF) = .illegalOp) :
    launchWrite v s = .next (reject .illegalOp (setCmdOp v s)) := by
  simp [launchWrite, h]

theorem launchWrite_reservedField (h : decode (cmdWordOf v s.cmdA s.cmdB s.cmdF) = .reservedField) :
    launchWrite v s = .next (reject .reservedField (setCmdOp v s)) := by
  simp [launchWrite, h]

end

end Sys2Proof.Machine

namespace Sys2Proof.Claim
open Sys2Proof.Machine

/-- Settles O13: the row that the OP names decides the decode, and then LEN_ZERO and SEQUENCE the launch. -/
theorem launchChecksInOrder : Obligations.LaunchChecksInOrder := by
  unfold Obligations.LaunchChecksInOrder
  intro s v rest hm
  refine ⟨step_cmdOp_busy hm, fun hb => ?_⟩
  have hs : s.sch = .idle := (busy_eq_false_iff s).mp hb
  intro u cw
  rw [step_cmdOp_idle hm hs]
  refine ⟨fun hnone => launchWrite_illegalOp (decode_illegalOp_iff.mpr (rowOf_eq_none hnone)), fun r hr hop => ?_⟩
  have hdec := decode_of_mem hr hop
  refine ⟨fun hmask => launchWrite_reservedField (hdec.trans (if_neg hmask)), fun hmask => ?_⟩
  have hexec : launchWrite v (withMoves rest s) = .next (launch (operands r.op cw) u) :=
    (launchWrite_command (s := withMoves rest s) (hdec.trans (if_pos hmask))).trans (exec_idle (s := u) hs)
  have hlen := lengthZero_operands r.op cw
  rw [hexec]
  refine ⟨fun hzero => ?_, fun hn => ?_⟩
  · rw [launch_lenZero (hlen.mpr hzero)]
    rfl
  have hz : lengthZero (operands r.op cw) = false := Bool.eq_false_iff.mpr fun h => hn (hlen.mp h)
  refine ⟨fun hp => ?_, fun hp => ?_⟩
  · rw [launch_sequence hz (by rwa [op_operands])]
    rfl
  · rw [launch_accept hz (by rwa [op_operands]), op_operands]
    rfl

/-- A command of non-zero length launches in exactly the phases that R89 lists for it. -/
theorem launches_of_legalPhase {c : Instr} {l : Label} {legal : Phase → Prop} (hz : lengthZero c = false)
    (hl : firstLabel c.op = l) (hp : ∀ b, legalPhase c.op b = true ↔ legal b) : Launches c l legal := by
  intro s hs
  rw [exec_idle hs]
  refine ⟨fun h => ?_, fun h => ?_⟩
  · rw [launch_accept hz ((hp _).mpr h), ← hl]
    rfl
  · rw [launch_sequence hz (Bool.eq_false_iff.mpr fun h' => h ((hp _).mp h'))]
    rfl

/-- Settles O15: LEN_ZERO comes before the phase; then each command with its own phases. -/
theorem launchLegalInTheListedPhases : Obligations.LaunchLegalInTheListedPhases := by
  unfold Obligations.LaunchLegalInTheListedPhases
  have zero (s : State) (a : Byte) (hs : s.sch = .idle) : exec (.eRdseq a 0#8) s = .next (reject .lenZero s) := by
    rw [exec_idle hs, launch_lenZero rfl]
  refine ⟨zero, launches_of_legalPhase rfl rfl fun _ => iff_of_true rfl trivial,
    launches_of_legalPhase rfl rfl fun _ => iff_of_true rfl trivial,
    launches_of_legalPhase rfl rfl fun _ => bne_iff_ne, fun _ _ => launches_of_legalPhase rfl rfl fun _ => beq_iff_eq,
    fun _ => launches_of_legalPhase rfl rfl fun b => ?_, fun _ => launches_of_legalPhase rfl rfl fun b => ?_,
    fun _ _ => launches_of_legalPhase rfl rfl fun _ => beq_iff_eq,
    fun _ _ => launches_of_legalPhase rfl rfl fun _ => beq_iff_eq,
    fun _ => launches_of_legalPhase rfl rfl fun _ => beq_iff_eq,
    fun _ => launches_of_legalPhase rfl rfl fun _ => beq_iff_eq,
    fun _ _ hn => launches_of_legalPhase (beq_eq_false_iff_ne.mpr hn) rfl fun _ => beq_iff_eq,
    launches_of_legalPhase rfl rfl fun _ => beq_iff_eq⟩
  · simp [legalPhase, Instr.op]
  · simp [legalPhase, Instr.op]

/-- Settles O16, by the step of each agent at the state the move finds. -/
theorem stepRunsTheDecodedCommand : Obligations.StepRunsTheDecodedCommand := by
  unfold Obligations.StepRunsTheDecodedCommand
  intro s c rest
  refine ⟨fun v hm hs hc => ?_, fun op l i hs hc => ⟨fun hm => ?_, fun r hm hp => ?_⟩⟩
  · exact (step_cmdOp_idle hm hs).trans (launchWrite_command (s := withMoves rest s) hc)
  · exact (step_cons hm).trans (runningStep_run (s := withMoves rest s) hs hc)
  · obtain ⟨q, hq⟩ := Option.ne_none_iff_exists'.mp hp
    exact (step_cons hm).trans (envStep_run (s := withMoves rest s) r hs hq hc)

end Sys2Proof.Claim
end

section
/-! PROOFS. Progress and the sequence of the bus primitives (40_bus_primitives.md R100, R101, R118): each agent's step from a state of Inv has a next state, and what puts an operation in flight. -/

namespace Sys2Proof.Machine

/-- A write of CMD_OP in S_IDLE launches or rejects: it never stops (R84). -/
theorem launchWrite_isNext (v : Byte) {s : State} (hs : s.sch = .idle) : ∃ t, launchWrite v s = .next t := by
  unfold launchWrite
  split
  · exact ⟨_, exec_idle (s := setCmdOp v s) hs⟩
  · exact ⟨_, rfl⟩
  · exact ⟨_, rfl⟩

theorem hostWriteStep_isNext (h : HAddr) (v : Byte) (s : State) : ∃ t, hostWriteStep h v s = .next t := by
  by_cases hl : h = 0x000#9 ∧ s.sch = .idle
  · obtain ⟨rfl, hs⟩ := hl
    rw [hostWriteStep_launch v hs]
    exact launchWrite_isNext v hs
  · exact ⟨_, hostWriteStep_other v (not_and_or.mp hl)⟩

/-- Under Inv the latch decodes and the label has an action, so the BLOCK agent acts, waits or rests. -/
theorem runningStep_isNext {s : State} (hI : Inv s) : ∃ t, runningStep s = .next t := by
  cases hs : s.sch with
  | idle => exact ⟨s, by simp [runningStep, hs]⟩
  | fault => exact ⟨s, by simp [runningStep, hs]⟩
  | run op l i =>
    have hk := hI.sch
    unfold schOk at hk
    rw [hs] at hk
    obtain ⟨c, hc⟩ := hk
    obtain rfl := hc.opOf
    obtain ⟨a, ha⟩ := Option.isSome_iff_exists.mp hc.hasLabel
    rw [runningStep_run hs hc.latched, exec_run hs, ha]
    cases hp : s.pend with
    | none => exact ⟨_, tableStep_block hp hI.answered⟩
    | some q => exact ⟨_, tableStep_waits hp hI.answered⟩

/-- Under Inv an operation in flight stands at the label that issued it, so ENV's answer always has its action. -/
theorem envStep_isNext (r : Response) {s : State} (hI : Inv s) : ∃ t, envStep r s = .next t := by
  cases hp : s.pend with
  | none => exact ⟨s, by unfold envStep; simp [hp]⟩
  | some q =>
    obtain ⟨l, i, c, p, after, hs, hc, ha, -, -⟩ := inFlight_label hI hp
    rw [envStep_run r hs hp hc.latched, exec_run (s := answering r s) hs,
      tableOf_congr c (s := s) (t := answering r s) rfl rfl, ha]
    exact ⟨_, tableStep_env (s := answering r s) hp rfl⟩

theorem moveStep_isNext (m : Move) {s : State} (hI : Inv s) : ∃ t, moveStep m s = .next t := by
  cases m with
  | hostRead h => exact ⟨_, rfl⟩
  | hostWrite h v => exact hostWriteStep_isNext h v s
  | block => exact runningStep_isNext hI
  | env r => exact envStep_isNext r hI
  | rst contents => exact ⟨_, rfl⟩

/-- An operation that a BLOCK step puts in flight is the one its label issues (R102). -/
theorem blockAction_pend {op : Op} {i : Byte} {a : Action} {s : State} {q : BusOp} (hp : s.pend = none)
    (h : (blockAction op i a s).pend = some q) : ∃ p after, a = .issue p after ∧ q = p.busOp s.bph := by
  cases a with
  | issue p after => exact ⟨p, after, rfl, (Option.some.inj h).symm⟩
  | _ => simp [blockAction, hp] at h

end Sys2Proof.Machine

namespace Sys2Proof.Claim
open Sys2Proof.Machine

/-- Settles O50: with no move left the machine stays, and the step of every agent has a next state. -/
theorem noStepIsRefusedOrStops : Obligations.NoStepIsRefusedOrStops := by
  unfold Obligations.NoStepIsRefusedOrStops Safe
  intro s hI
  cases hm : s.moves with
  | nil => exact ⟨s, step_nil hm⟩
  | cons m rest =>
    rw [step_cons hm]
    exact moveStep_isNext m (hI.congr rfl rfl rfl rfl rfl rfl rfl rfl rfl rfl)

/-- Settles O51: only a BLOCK step at an issue label puts an operation in flight, and the phases of the label admit its
primitive. -/
theorem noPrimitiveOutOfSequence : Obligations.NoPrimitiveOutOfSequence := by
  unfold Obligations.NoPrimitiveOutOfSequence
  intro s t q hI h hnone hsome
  obtain rfl | ⟨m, rest, -, hc⟩ := step_changes hI h
  · exact absurd (hnone.symm.trans hsome) nofun
  cases hc
  case blocks l i c a _ hp _ hr ha =>
    obtain ⟨p, after, rfl, hq⟩ := blockAction_pend (s := withMoves rest s) hp hsome
    exact ⟨p, hq, issue_inSequence hr.phase ha⟩
  all_goals simp [hnone] at hsome

end Sys2Proof.Claim
end

section
/-! PROOFS. The step a running command takes at a label (40_bus_primitives.md R100 to R117): the BLOCK step, the completion, a bus fault, the wait and END, once for every command; then each P command. -/

namespace Sys2Proof.Machine

/-- Every step table has the label END (R100). -/
theorem tableOf_fin (c : Instr) (s : State) (i : Byte) : tableOf c s .fin i = some .finish := by cases c <;> rfl

/-- A completion action without `nak(r)` leaves NAK (R29). -/
theorem recordNak_unwanted (r : Response) (s : State) : recordNak false r s = s := by
  simp [recordNak]

theorem storeByte_drop (r : Response) (s : State) : storeByte .drop r s = s := by cases r <;> rfl

/-- ARB_LOST and BUS_ERROR are responses of every operation but STOP (R101). -/
theorem answered_faults {q : BusOp} (hq : q ≠ .stop) (bph : Phase) (twdr : Byte) :
    answered q .arbLost bph twdr = .faults .arbLost ∧ answered q .busError bph twdr = .faults .busError := by
  cases q with
  | stop => exact absurd rfl hq
  | _ => exact ⟨rfl, rfl⟩

/-- ENV's acknowledge, given or not, completes a written byte (R101, R105, R106). -/
theorem answered_ackOf (b : Byte) (kind : WriteKind) (ack : Bool) (bph : Phase) (twdr : Byte) :
    answered (.write b kind) (Claim.ackOf ack) bph twdr = .completes (writeDone b kind ack bph twdr) := by
  cases ack <;> rfl

end Sys2Proof.Machine

namespace Sys2Proof.Claim
open Sys2Proof.Machine

section
variable {c : Instr} {l : Label} {i : Byte} {s : State}

/-- The BLOCK step that is due is the action of the label. -/
theorem Ready.exec_eq {a : Action} (h : Ready c l i s) (ha : tableOf c s l i = some a) :
    exec c s = .next (blockAction c.op i a s) := by
  obtain ⟨hs, hp, hans⟩ := h
  rw [exec_run hs, ha, tableStep_block hp hans]

/-- The ENV step that is due is the answer to the operation the label issued. -/
theorem Given.exec_eq {q : BusOp} {r : Response} {p : Prim} {after : After} (h : Given c l i q r s)
    (ha : tableOf c s l i = some (.issue p after)) : exec c s = .next (envAction c.op after q r s) := by
  obtain ⟨hs, hp, hans⟩ := h
  rw [exec_run hs, ha, tableStep_env hp hans]

theorem Waiting.exec_eq {q : BusOp} {a : Action} (h : Waiting c l i q s) (ha : tableOf c s l i = some a) :
    exec c s = .next s := by
  obtain ⟨hs, hp, hans⟩ := h
  rw [exec_run hs, ha, tableStep_waits hp hans]

end

theorem ends (c : Instr) : Ends c := fun s i h => h.exec_eq (tableOf_fin c s i)

/-- At a label that issues, a bus fault enters FAULT and a missing answer waits. -/
theorem faultsAndWaits_of_table {c : Instr} {l : Label}
    (ht : ∀ s i, ∃ p after, tableOf c s l i = some (.issue p after)) : FaultsAndWaits c l := by
  intro s i q
  obtain ⟨p, after, ha⟩ := ht s i
  refine ⟨fun hq r code hcode hg => ?_, fun hw => hw.exec_eq ha⟩
  obtain ⟨harb, herr⟩ := answered_faults hq s.bph s.twdr
  rw [hg.exec_eq ha]
  rcases hcode with ⟨rfl, rfl⟩ | ⟨rfl, rfl⟩
  · rw [envAction_faults harb]; rfl
  · rw [envAction_faults herr]; rfl

/-- A row of a step table, read off the table. -/
theorem issueRow_of_table {c : Instr} {l : Label} {p : State → Byte → Prim} {nak : Bool} {dest : Byte → Dest}
    {next : Byte → Label × Byte}
    (ht : ∀ s i, tableOf c s l i = some (.issue (p s i) ⟨nak, dest i, (next i).1, (next i).2⟩)) :
    IssueRow c l p nak dest next := by
  refine ⟨fun s i h => h.exec_eq (ht s i), fun s i q r d h hd => ?_, faultsAndWaits_of_table fun s i => ⟨_, _, ht s i⟩⟩
  rw [h.exec_eq (ht s i), envAction_completes hd]

/-- Settles O17, by the BLOCK step of S0. -/
theorem pStatusReadsTheMaskedStatus : Obligations.PStatusReadsTheMaskedStatus :=
  ⟨fun _ _ h => h.exec_eq rfl, ends _⟩

/-- Settles O23, by the BLOCK step of S0. -/
theorem pInitWritesTheClock : Obligations.PInitWritesTheClock :=
  fun _ _ => ⟨fun _ _ h => h.exec_eq rfl, ends _⟩

theorem pStart_row : IssueRow .pStart .s0 (fun _ _ => .start) false (fun _ => .drop) (fun i => (.fin, i)) :=
  issueRow_of_table fun _ _ => rfl

theorem pStop_row : IssueRow .pStop .s0 (fun _ _ => .stop) false (fun _ => .drop) (fun i => (.fin, i)) :=
  issueRow_of_table fun _ _ => rfl

theorem pTxaddr_row (sla : BitVec 7) (dir : Dir) :
    IssueRow (.pTxaddr sla dir) .s0 (fun _ _ => .txaddr sla dir) false (fun _ => .drop) (fun i => (.fin, i)) :=
  issueRow_of_table fun _ _ => rfl

theorem pTxbyte_row (d : Byte) :
    IssueRow (.pTxbyte d) .s0 (fun _ _ => .txbyte d) false (fun _ => .drop) (fun i => (.fin, i)) :=
  issueRow_of_table fun _ _ => rfl

theorem pRxbyte_row (k : Bool) :
    IssueRow (.pRxbyte k) .s0 (fun _ _ => .rxbyte k) false (fun _ => .result) (fun i => (.fin, i)) :=
  issueRow_of_table fun _ _ => rfl

/-- Settles O18: a start is a repeated start when BPH is not IDLE, and its completion leaves ADDR. -/
theorem pStartSendsAStart : Obligations.PStartSendsAStart := by
  unfold Obligations.PStartSendsAStart
  obtain ⟨hissue, hdone, hfault⟩ := pStart_row
  refine ⟨fun s i h => ?_, fun s i rep h => ?_, hfault, ends _⟩
  · have hrep : decide (s.bph ≠ .idle) = (s.bph != .idle) := by cases s.bph <;> rfl
    rw [hissue s i h, hrep]
    rfl
  · rw [hdone s i _ _ _ h rfl, recordNak_unwanted, storeByte_drop]
    cases rep <;> rfl

/-- Settles O19: a completed stop leaves IDLE and NO_INFO. -/
theorem pStopSendsAStop : Obligations.PStopSendsAStop := by
  unfold Obligations.PStopSendsAStop
  obtain ⟨hissue, hdone, -⟩ := pStop_row
  refine ⟨fun s i h => hissue s i h, fun s i h => ?_, ends _⟩
  rw [hdone s i _ _ _ h rfl, recordNak_unwanted, storeByte_drop]
  rfl

/-- Settles O20: the completion takes status and phase from the direction and the acknowledge. -/
theorem pTxaddrSendsTheAddressByte : Obligations.PTxaddrSendsTheAddressByte := by
  unfold Obligations.PTxaddrSendsTheAddressByte
  intro sla dir b
  obtain ⟨hissue, hdone, hfault⟩ := pTxaddr_row sla dir
  have hb : b = addrByte sla dir := by cases dir <;> rfl
  rw [hb]
  refine ⟨fun s i h => hissue s i h, fun s i a h => ?_, hfault, ends _⟩
  rw [hdone s i _ _ _ h (answered_ackOf _ _ a s.bph s.twdr), recordNak_unwanted, storeByte_drop]
  cases dir <;> cases a <;> rfl

/-- Settles O21: the completion takes its status from the acknowledge and leaves BPH. -/
theorem pTxbyteSendsADataByte : Obligations.PTxbyteSendsADataByte := by
  unfold Obligations.PTxbyteSendsADataByte
  intro d
  obtain ⟨hissue, hdone, hfault⟩ := pTxbyte_row d
  refine ⟨fun s i h => hissue s i h, fun s i a h => ?_, hfault, ends _⟩
  rw [hdone s i _ _ _ h (answered_ackOf d .data a s.bph s.twdr), recordNak_unwanted, storeByte_drop]
  cases a <;> rfl

/-- Settles O22: the completion puts the byte in TWDR and, by the completion action, in RESULT. -/
theorem pRxbyteReceivesAByte : Obligations.PRxbyteReceivesAByte := by
  unfold Obligations.PRxbyteReceivesAByte
  intro k
  obtain ⟨hissue, hdone, hfault⟩ := pRxbyte_row k
  refine ⟨fun s i h => ?_, fun s i v h => ?_, hfault, ends _⟩
  · rw [hissue s i h]
    cases k <;> rfl
  · rw [hdone s i _ _ _ h rfl, recordNak_unwanted]
    cases k <;> rfl

end Sys2Proof.Claim
end

section
/-! PROOFS. The frames of the commands (10_state.md R26, R29, R34, R37, R38; 40_bus_primitives.md R102): for each piece of state, the commands that can write it. -/

namespace Sys2Proof.Machine

variable {c : Instr} {s t : State}

/-- Of all commands only an E command other than E.WAITRDY has `nak(r)` in a completion action (R29, R133, R134). -/
theorem nak_label {l : Label} {i : Byte} {p : Prim} {after : After} (ha : tableOf c s l i = some (.issue p after))
    (hn : after.nak = true) : c.op.isE = true ∧ c ≠ .eWaitrdy := by
  cases c <;> cases l <;> cases ha
  all_goals simp [andThen, nakThen, keepThen, toEnd, Instr.op, Op.isE] at hn ⊢

/-- P.STATUS and P.INIT use no bus operation: their labels are an internal one and END (R108, R109). -/
theorem internal_label (hc : c = .pStatus ∨ ∃ r p, c = .pInit r p) {l : Label} {i : Byte} {a : Action}
    (ha : tableOf c s l i = some a) :
    (c = .pStatus ∧ a = .readStatus) ∨ (∃ r p, c = .pInit r p ∧ a = .init r p) ∨ a = .finish := by
  obtain rfl | ⟨r, p, rfl⟩ := hc
  · cases l <;> cases ha
    · exact .inl ⟨rfl, rfl⟩
    · exact .inr (.inr rfl)
  · cases l <;> cases ha
    · exact .inr (.inl ⟨r, p, rfl, rfl⟩)
    · exact .inr (.inr rfl)

/-- A property of everything exec can answer, one premise for each case of `exec_cases`. -/
theorem exec_ind {P : State → Prop} (h : exec c s = .next t) (stays : P s) (drops : P (dropAnswer s))
    (rejects : s.sch = .idle → ∀ code, P (reject code s)) (accepts : s.sch = .idle → P (accept c.op s))
    (blocks : ∀ l i a, tableOf c s l i = some a → P (blockAction c.op i a s))
    (answers : ∀ l i p after q r, tableOf c s l i = some (.issue p after) → s.pend = some q → s.answer = some r →
      P (envAction c.op after q r s)) : P t := by
  obtain ⟨hs, ⟨code, rfl⟩ | rfl⟩ | ⟨-, rfl⟩ | ⟨l, i, -, ⟨a, ha, -, -, rfl⟩ | ⟨-, -, rfl⟩ | ⟨-, -, rfl⟩ |
    ⟨p, after, q, r, ha, hq, hr, rfl⟩⟩ := exec_cases h
  · exact rejects hs code
  · exact accepts hs
  · exact stays
  · exact blocks l i a ha
  · exact drops
  · exact stays
  · exact answers l i p after q r ha hq hr

/-- RESULT is written by P.STATUS and by a received byte of P.RXBYTE and E.RDBYTE alone (R26). -/
theorem exec_result (h : exec c s = .next t) (hst : c ≠ .pStatus)
    (hrx : (c.op ≠ .pRxbyte ∧ c.op ≠ .eRdbyte) ∨ ∀ v, s.answer ≠ some (.data v)) : t.result = s.result := by
  refine exec_ind (P := fun t => t.result = s.result) h rfl rfl (fun _ _ => rfl) (fun _ => rfl)
    (fun l i a ha => ?_) fun l i p after q r ha _ hr => ?_
  · cases a with
    | readStatus => exact absurd (readStatus_label ha).1 hst
    | _ => rfl
  · refine envAction_result (hrx.imp (fun ⟨hp, he⟩ hd => ?_) fun hv v e => hv v (hr.trans (congrArg some e)))
    rcases result_label ha hd with ⟨ho, -⟩ | ⟨ho, -⟩
    · exact hp ho
    · exact he ho

/-- NAK is written by E commands other than E.WAITRDY alone (R29). -/
theorem exec_nak (h : exec c s = .next t) (hc : c.op.isE = false ∨ c = .eWaitrdy) : t.nak = s.nak := by
  refine exec_ind (P := fun t => t.nak = s.nak) h rfl rfl (fun _ _ => rfl) (fun _ => rfl)
    (fun _ i a _ => blockAction_nak _ i a s) fun l i p after q r ha _ _ => envAction_nak ?_
  refine Bool.eq_false_iff.mpr fun hn => ?_
  obtain ⟨he, hw⟩ := nak_label ha hn
  exact hc.elim (fun hf => absurd (hf.symm.trans he) (by decide)) hw

/-- The clock is written by P.INIT alone (R37). -/
theorem exec_clock (h : exec c s = .next t) (hc : ∀ r p, c ≠ .pInit r p) :
    t.twbr = s.twbr ∧ t.twsrPresc = s.twsrPresc := by
  refine exec_ind (P := fun t => t.twbr = s.twbr ∧ t.twsrPresc = s.twsrPresc) h ⟨rfl, rfl⟩ ⟨rfl, rfl⟩
    (fun _ _ => ⟨rfl, rfl⟩) (fun _ => ⟨rfl, rfl⟩) (fun l i a ha => ?_) fun _ _ _ _ _ _ _ _ _ => envAction_clock
  cases a with
  | init r p => exact absurd (init_label ha).1 (hc r p)
  | _ => exact ⟨rfl, rfl⟩

/-- BUF is written by E.RDSEQ alone (R38). -/
theorem exec_buf (h : exec c s = .next t) (hc : ∀ a n, c ≠ .eRdseq a n) : t.buf = s.buf := by
  refine exec_ind (P := fun t => t.buf = s.buf) h rfl rfl (fun _ _ => rfl) (fun _ => rfl)
    (fun _ i a _ => blockAction_buf _ i a s) fun l i p after q r ha _ _ => envAction_buf fun j hj => ?_
  obtain ⟨a, n, rfl, -⟩ := buf_label ha hj
  exact hc a n rfl

/-- ENV's answer to a start or a stop leaves TWDR (R34, R103, R104). -/
theorem envAction_twdr {op : Op} {after : After} {q : BusOp} {r : Response}
    (hq : q = .stop ∨ ∃ rep, q = .start rep) : (envAction op after q r s).twdr = s.twdr := by
  rcases envAction_cases op after q r s with ⟨d, hd, e⟩ | ⟨f, -, e⟩ | ⟨-, e⟩ <;> rw [e]
  · have hdone : d.twdr = s.twdr := by
      obtain rfl | ⟨rep, rfl⟩ := hq <;> cases r <;> cases hd <;> rfl
    simpa using hdone
  · rfl
  · rfl

/-- P.START and P.STOP leave TWDR while no byte is in flight (R34). -/
theorem exec_twdr (h : exec c s = .next t) (hc : c = .pStart ∨ c = .pStop)
    (hp : s.pend = none ∨ s.pend = some .stop ∨ ∃ rep, s.pend = some (.start rep)) : t.twdr = s.twdr := by
  refine exec_ind (P := fun t => t.twdr = s.twdr) h rfl rfl (fun _ _ => rfl) (fun _ => rfl)
    (fun l i a ha => ?_) fun _ _ _ _ q r _ hq _ => envAction_twdr (by simpa [hq] using hp)
  obtain rfl | rfl := hc <;> cases l <;> cases ha <;> rfl

/-- What P.STATUS and P.INIT leave of the bus: its registers, the phase, the operation in flight and the trace. -/
def BusUnchanged (s t : State) : Prop :=
  t.twcr = s.twcr ∧ t.twdr = s.twdr ∧ t.twsrCode = s.twsrCode ∧ t.bph = s.bph ∧ t.pend = s.pend ∧ t.trace = s.trace

/-- P.STATUS and P.INIT touch no bus register and append no bus event (R108, R109). -/
theorem exec_busUnchanged (h : exec c s = .next t) (hc : c = .pStatus ∨ ∃ r p, c = .pInit r p) :
    BusUnchanged s t := by
  have hrfl : BusUnchanged s s := ⟨rfl, rfl, rfl, rfl, rfl, rfl⟩
  refine exec_ind h hrfl hrfl (fun _ _ => hrfl) (fun _ => hrfl) (fun l i a ha => ?_) fun l i p after q r ha _ _ => ?_
  · rcases internal_label hc ha with ⟨-, rfl⟩ | ⟨r, p, -, rfl⟩ | rfl <;> exact hrfl
  · rcases internal_label hc ha with ⟨-, e⟩ | ⟨r, p, -, e⟩ | e <;> cases e

end Sys2Proof.Machine

namespace Sys2Proof.Claim
open Sys2Proof.Machine

variable {c : Instr} {s t : State}

/-- A BLOCK step keeps the common frame. -/
theorem blockAction_commonFrame (op : Op) (i : Byte) (a : Action) (s : State) :
    CommonFrame s (blockAction op i a s) := by
  cases a <;> simp [CommonFrame, blockAction]

/-- An ENV step keeps the common frame. -/
theorem envAction_commonFrame (op : Op) (after : After) (q : BusOp) (r : Response) (s : State) :
    CommonFrame s (envAction op after q r s) := by
  rcases envAction_cases op after q r s with ⟨d, -, e⟩ | ⟨f, -, e⟩ | ⟨-, e⟩ <;> rw [e] <;> simp [CommonFrame]

/-- Every command keeps the common frame: a launch alone writes LC and ERRCODE (R25, R31). -/
theorem exec_commonFrame (h : exec c s = .next t) : CommonFrame s t := by
  have hrfl : CommonFrame s s := ⟨rfl, rfl, rfl, rfl, rfl, rfl, rfl, rfl, fun _ => ⟨rfl, rfl⟩⟩
  refine exec_ind h hrfl hrfl (fun hs code => ?_) (fun hs => ?_) (fun _ i a _ => blockAction_commonFrame _ i a s)
    fun _ _ _ after q r _ _ _ => envAction_commonFrame _ after q r s
  · simp [CommonFrame, hs]
  · simp [CommonFrame, hs]

/-- BUF reads as before after every command but E.RDSEQ (R38). -/
theorem exec_bufUnchanged (h : exec c s = .next t) (hc : ∀ a n, c ≠ .eRdseq a n) : BufUnchanged s t := by
  intro x
  rw [exec_buf h hc]

/-- Settles O54, field by field: none of the four writes RESULT, NAK, the clock or BUF. -/
theorem busPrimitivesKeepTheRest : Obligations.BusPrimitivesKeepTheRest := by
  unfold Obligations.BusPrimitivesKeepTheRest
  intro c s t hc h
  obtain ⟨hst, hinit, hseq, hrx, he⟩ : c ≠ .pStatus ∧ (∀ r p, c ≠ .pInit r p) ∧ (∀ a n, c ≠ .eRdseq a n) ∧
      (c.op ≠ .pRxbyte ∧ c.op ≠ .eRdbyte) ∧ c.op.isE = false := by
    rcases hc with rfl | rfl | ⟨sla, dir, rfl⟩ | ⟨d, rfl⟩ <;> simp [Instr.op, Op.isE]
  obtain ⟨htwbr, hpresc⟩ := exec_clock h hinit
  exact ⟨exec_commonFrame h, exec_bufUnchanged h hseq, exec_result h hst (.inl hrx), exec_nak h (.inl he), htwbr, hpresc,
    exec_twdr h⟩

/-- Settles O55, field by field: the BLOCK steps of P.STATUS and P.INIT write RESULT and the clock alone. -/
theorem internalCommandsKeepTheRest : Obligations.InternalCommandsKeepTheRest := by
  unfold Obligations.InternalCommandsKeepTheRest
  intro c s t hc h
  obtain ⟨hseq, hrx, he⟩ : (∀ a n, c ≠ .eRdseq a n) ∧ (c.op ≠ .pRxbyte ∧ c.op ≠ .eRdbyte) ∧ c.op.isE = false := by
    rcases hc with rfl | ⟨r, p, rfl⟩ <;> simp [Instr.op, Op.isE]
  obtain ⟨htwcr, htwdr, hcode, hbph, hpend, htrace⟩ := exec_busUnchanged h hc
  exact ⟨exec_commonFrame h, exec_bufUnchanged h hseq, exec_nak h (.inl he), htwcr, htwdr, hcode, hbph, hpend, htrace,
    fun hst => exec_clock h (by simp [hst]), fun hst => exec_result h hst (.inl hrx)⟩

/-- Settles O56, field by field: RESULT is written only where a byte is received, and P.RXBYTE has no `nak(r)`. -/
theorem singleReceivesKeepTheRest : Obligations.SingleReceivesKeepTheRest := by
  unfold Obligations.SingleReceivesKeepTheRest
  intro c s t hc h
  obtain ⟨hst, hinit, hseq⟩ : c ≠ .pStatus ∧ (∀ r p, c ≠ .pInit r p) ∧ ∀ a n, c ≠ .eRdseq a n := by
    rcases hc with ⟨k, rfl⟩ | ⟨a, rfl⟩ <;> simp
  obtain ⟨htwbr, hpresc⟩ := exec_clock h hinit
  refine ⟨exec_commonFrame h, exec_bufUnchanged h hseq, htwbr, hpresc, ?_, fun hv => exec_result h hst (.inr hv)⟩
  rintro ⟨k, rfl⟩
  exact exec_nak h (.inl rfl)

end Sys2Proof.Claim
end

section
/-! PROOFS. The step tables of the E commands, row by row, and the rounded page address (41_eeprom_ops.md R131 to R139). -/

namespace Sys2Proof.Machine

/-- `eff(a)` as a number: the multiple of 8 at or above `a`, modulo 256 (R132). -/
theorem eff_toNat (a : Byte) : (eff a).toNat = (a.toNat + 7) / 8 * 8 % 256 := BitVec.toNat_ofNat _ _

/-- The command has the rows W0 to W3 of the poll (R133, R139). -/
def Polls (c : Instr) : Prop :=
  ∀ (s : State) (l : Label) (i : Byte), l = .w0 ∨ l = .w1 ∨ l = .w2 ∨ l = .w3 → tableOf c s l i = pollTable s l i

theorem polls_eWaitrdy : Polls .eWaitrdy := fun _ _ _ _ => rfl

theorem polls_eWrbyte (a d : Byte) : Polls (.eWrbyte a d) := by
  rintro s l i (rfl | rfl | rfl | rfl) <;> rfl

theorem polls_eWrpage (a : Byte) : Polls (.eWrpage a) := by
  rintro s l i (rfl | rfl | rfl | rfl) <;> rfl

end Sys2Proof.Machine

namespace Sys2Proof.Claim
open Sys2Proof.Machine

/-- The poll's check goes to W3 on SLA_W_ACK and back to W0 on every other status (R133). -/
theorem pollCheck_row {c : Instr} (ht : ∀ s i, tableOf c s .w2 i = some .pollCheck) {s : State} {i : Byte}
    (h : Ready c .w2 i s) :
    (s.status = s.params.codes.slaWAck ++ 0#3 → exec c s = .next { s with sch := .run c.op .w3 i }) ∧
    (s.status ≠ s.params.codes.slaWAck ++ 0#3 → exec c s = .next { s with sch := .run c.op .w0 i }) := by
  have hexec : exec c s = .next (goto c.op (if s.status = s.params.codes.slaWAck ++ 0#3 then .w3 else .w0) i s) :=
    h.exec_eq (ht s i)
  refine ⟨fun he => ?_, fun hne => ?_⟩
  · rw [hexec, if_pos he]; rfl
  · rw [hexec, if_neg hne]; rfl

/-- A command that has the rows of the poll follows them (R133). -/
theorem pollRows_of_polls {c : Instr} (hp : Polls c) : PollRows c :=
  ⟨issueRow_of_table fun s i => hp s .w0 i (by simp), issueRow_of_table fun s i => hp s .w1 i (by simp),
    fun _ _ h => pollCheck_row (fun s i => hp s .w2 i (by simp)) h,
    issueRow_of_table fun s i => hp s .w3 i (by simp), ends c⟩

/-- Settles O24: the table is the poll's. -/
theorem eWaitrdyFollowsItsTable : Obligations.EWaitrdyFollowsItsTable :=
  pollRows_of_polls polls_eWaitrdy

/-- Settles O25, row by row. -/
theorem eWrbyteFollowsItsTable : Obligations.EWrbyteFollowsItsTable := fun a d =>
  ⟨issueRow_of_table fun _ _ => rfl, issueRow_of_table fun _ _ => rfl, issueRow_of_table fun _ _ => rfl,
    issueRow_of_table fun _ _ => rfl, issueRow_of_table fun _ _ => rfl,
    pollRows_of_polls (polls_eWrbyte a d)⟩

/-- Settles O26, row by row. -/
theorem eRdbyteFollowsItsTable : Obligations.ERdbyteFollowsItsTable := fun _ =>
  ⟨issueRow_of_table fun _ _ => rfl, issueRow_of_table fun _ _ => rfl, issueRow_of_table fun _ _ => rfl,
    issueRow_of_table fun _ _ => rfl, issueRow_of_table fun _ _ => rfl, issueRow_of_table fun _ _ => rfl,
    issueRow_of_table fun _ _ => rfl, ends _⟩

/-- The row of a data byte of E.WRPAGE: B3 comes again up to BUF[6], and BUF[7] leads to B4 (R136). -/
theorem tableOf_eWrpage_b3 (a : Byte) (s : State) (i : Byte) :
    tableOf (.eWrpage a) s .b3 i = some (.issue (.txbyte (memRead s.buf i.toNat))
      ⟨true, .drop, (if i.toNat < 7 then (Label.b3, i + 1#8) else (.b4, i)).1,
        (if i.toNat < 7 then (Label.b3, i + 1#8) else (.b4, i)).2⟩) := by
  by_cases h : i.toNat < 7
  · simp [tableOf, tableEWrpage, State.bufAt, Config.page, nakThen, nextIndex, h]
  · simp [tableOf, tableEWrpage, State.bufAt, Config.page, nakThen, h]

/-- Settles O27, row by row. -/
theorem eWrpageFollowsItsTable : Obligations.EWrpageFollowsItsTable := fun a =>
  ⟨issueRow_of_table fun _ _ => rfl, issueRow_of_table fun _ _ => rfl, issueRow_of_table fun _ _ => rfl,
    issueRow_of_table (tableOf_eWrpage_b3 a), issueRow_of_table fun _ _ => rfl,
    pollRows_of_polls (polls_eWrpage a)⟩

/-- Settles O28, row by row. -/
theorem eRdseqFollowsItsTable : Obligations.ERdseqFollowsItsTable := fun _ _ =>
  ⟨issueRow_of_table fun _ _ => rfl, issueRow_of_table fun _ _ => rfl, issueRow_of_table fun _ _ => rfl,
    issueRow_of_table fun _ _ => rfl, issueRow_of_table fun _ _ => rfl, issueRow_of_table fun _ _ => rfl,
    issueRow_of_table fun _ _ => rfl, issueRow_of_table fun _ _ => rfl, ends _⟩

/-- Settles O29, by arithmetic on `eff_toNat`. -/
theorem effRoundsUpToThePage : Obligations.EffRoundsUpToThePage := by
  intro a
  have he := eff_toNat a
  have ha := a.isLt
  refine ⟨by omega, fun hle => ⟨by omega, by omega⟩, fun hge => BitVec.eq_of_toNat_eq ?_⟩
  rw [he, BitVec.toNat_ofNat]
  omega

end Sys2Proof.Claim
end

section
/-! PROOFS. The END of an E command and the frames of the E commands, field by field (41_eeprom_ops.md R130, R134 to R138; 20_memory.md R58). -/

namespace Sys2Proof.Machine

/-- A running command of a state that meets Inv (R41). -/
theorem Inv.running {s : State} (hI : Inv s) {op : Op} {l : Label} {i : Byte} (hs : s.sch = .run op l i) :
    ∃ c, Running s op l i c := by
  have h := hI.sch
  unfold schOk at h
  rwa [hs] at h

/-- Nothing is in flight at END (R100). -/
theorem Running.pend_fin {s : State} {op : Op} {i : Byte} {c : Instr} (h : Running s op .fin i c) : s.pend = none := by
  have hf := h.flight
  unfold inFlight at hf
  rw [tableOf_fin] at hf
  cases hp : s.pend with
  | none => rfl
  | some q => rw [hp] at hf; exact hf.elim

/-- The END of an E command stands in bus phase IDLE alone (R130). -/
theorem labelPhase_fin {op : Op} (he : op.isE = true) {bph : Phase} (h : labelPhase op .fin bph = true) :
    bph = .idle := by
  cases op <;> cases he <;> exact eq_of_beq h

/-- A response puts at most one byte in BUF, where the completion action says (R137). -/
theorem envAction_buf_cases (op : Op) (after : After) (q : BusOp) (r : Response) (s : State) :
    (envAction op after q r s).buf = s.buf ∨
    ∃ j v, after.dest = .buf j ∧ (envAction op after q r s).buf = memWrite s.buf j.toNat v := by
  rcases envAction_cases op after q r s with ⟨d, -, e⟩ | ⟨f, -, e⟩ | ⟨-, e⟩ <;> rw [e]
  · exact (storeByte_buf after.dest r _).imp id fun ⟨j, v, hd, _, hb⟩ => ⟨j, v, hd, hb⟩
  · exact .inl rfl
  · exact .inl rfl

/-- A step of E.RDSEQ writes BUF[i] at B5, BUF[n - 1] at B6, or no byte of BUF (R137). -/
theorem exec_eRdseq_buf {a n : Byte} {s t : State} (h : exec (.eRdseq a n) s = .next t) :
    t.buf = s.buf ∨ ∃ l i j v, s.sch = .run .eRdseq l i ∧ (l = .b5 ∧ j = i ∨ l = .b6 ∧ j = n - 1#8) ∧
      t.buf = memWrite s.buf j.toNat v := by
  obtain ⟨-, ⟨code, rfl⟩ | rfl⟩ | ⟨-, rfl⟩ | ⟨l, i, hs, ⟨act, -, -, -, rfl⟩ | ⟨-, -, rfl⟩ | ⟨-, -, rfl⟩ |
    ⟨p, after, q, r, ha, -, -, rfl⟩⟩ := exec_cases h
  case inr.inr.inl => exact .inl (blockAction_buf _ _ _ _)
  case inr.inr.inr.inr.inr =>
    refine (envAction_buf_cases _ after q r s).imp id fun ⟨j, v, hd, hb⟩ => ?_
    obtain ⟨_, _, e, hj⟩ := buf_label ha hd
    cases e
    exact ⟨l, i, j, v, hs, hj, hb⟩
  all_goals exact .inl rfl

end Sys2Proof.Machine

namespace Sys2Proof.Claim
open Sys2Proof.Machine

/-- Settles O52: at END the invariant has nothing in flight, the bus phase IDLE and the status NO_INFO, and the BLOCK
step ends the run. -/
theorem eCommandEndsWithTheBusIdle : Obligations.ECommandEndsWithTheBusIdle := by
  intro s t op i rest hI he hs hm h
  obtain ⟨c, hr⟩ := hI.running hs
  obtain rfl := hr.opOf
  have hstep : step s = .next (setSch .idle (withMoves rest s)) := by
    rw [step_cons hm]
    change runningStep (withMoves rest s) = _
    rw [runningStep_run (s := withMoves rest s) hs hr.latched]
    exact ends c (withMoves rest s) i ⟨hs, hr.pend_fin, hI.answered⟩
  cases h.symm.trans hstep
  exact ⟨rfl, labelPhase_fin he hr.phase, by rw [status_eq]; exact congrArg (· ++ 0#3) (hr.status he)⟩

/-- Settles O57, field by field: none of the three writes RESULT, the clock or BUF, and E.WAITRDY has no `nak(r)`. -/
theorem deviceWritesKeepTheRest : Obligations.DeviceWritesKeepTheRest := by
  intro c s t hc h
  obtain ⟨hst, hinit, hseq, hrx⟩ : c ≠ .pStatus ∧ (∀ r p, c ≠ .pInit r p) ∧ (∀ a n, c ≠ .eRdseq a n) ∧
      (c.op ≠ .pRxbyte ∧ c.op ≠ .eRdbyte) := by
    rcases hc with ⟨a, d, rfl⟩ | ⟨a, rfl⟩ | rfl <;> simp [Instr.op]
  obtain ⟨htwbr, hpresc⟩ := exec_clock h hinit
  exact ⟨exec_commonFrame h, exec_bufUnchanged h hseq, exec_result h hst (.inl hrx), htwbr, hpresc,
    fun hw => exec_nak h (.inr hw)⟩

/-- Settles O58: RESULT and the clock by the frames of exec, BUF by the one byte that `exec_eRdseq_buf` names. -/
theorem sequentialReadStoresOneByte : Obligations.SequentialReadStoresOneByte := by
  intro a n s t h
  obtain ⟨htwbr, hpresc⟩ := exec_clock h (by simp)
  refine ⟨exec_commonFrame h, exec_result h (by simp) (.inl (by simp [Instr.op])), htwbr, hpresc, ?_⟩
  rcases exec_eRdseq_buf h with hb | ⟨l, i, j, v, hs, hj, hb⟩
  · rw [hb]
    exact ⟨fun _ _ _ _ => rfl, fun _ _ _ _ => rfl, fun _ x => by rw [hb]⟩
  · rw [hb, hs]
    rcases hj with ⟨rfl, rfl⟩ | ⟨rfl, rfl⟩
    · refine ⟨fun i' e x hx => ?_, fun i' e => (by cases e), fun hno => absurd rfl (hno j).1⟩
      cases e
      exact memRead_memWrite_other v hx
    · exact ⟨fun i' e => (by cases e), fun i' _ x hx => memRead_memWrite_other v hx, fun hno => absurd rfl (hno i).2⟩

end Sys2Proof.Claim
end

section
/-! PROOFS. Walks: the bus operations and internal steps of a running command as a relation of its own, with the bus events they add, run by the machine move by move (40_bus_primitives.md R100 to R107). -/

namespace Sys2Proof.Machine
open Sys2Proof.Claim

/-- From `s` the running command `c` makes the moves `ms`, each an internal step of an E command (the poll's check,
END) or one half of a completed bus operation, adds the bus events `es`, and stands in `t`. -/
inductive Walk (c : Instr) : State → List Move → List BusEvent → State → Prop where
  | nil (s : State) : Walk c s [] [] s
  | internal {s t : State} {l : Label} {i : Byte} {a : Action} {ms : List Move} {es : List BusEvent}
      (hr : Ready c l i s) (ha : tableOf c s l i = some a) (hi : a = .pollCheck ∨ a = .finish)
      (next : Walk c (blockAction c.op i a s) ms es t) : Walk c s (.block :: ms) es t
  | op {s t : State} {l : Label} {i : Byte} {p : Prim} {after : After} {r : Response} {d : Done} {ms : List Move}
      {es : List BusEvent} (hr : Ready c l i s) (ha : tableOf c s l i = some (.issue p after))
      (hd : answered (p.busOp s.bph) r s.bph (twdrIssued (p.busOp s.bph) s.twdr) = .completes d)
      (next : Walk c (opDone c p after r d s) ms es t) : Walk c s (.block :: .env r :: ms) (d.event :: es) t

variable {c : Instr} {s t u : State} {l : Label} {i : Byte} {ms ms' : List Move} {es es' : List BusEvent}

theorem Walk.trans (h : Walk c s ms es t) (h' : Walk c t ms' es' u) : Walk c s (ms ++ ms') (es ++ es') u := by
  induction h with
  | nil s => exact h'
  | internal hr ha hi _ ih => exact .internal hr ha hi (ih h')
  | op hr ha hd _ ih => exact .op hr ha hd (ih h')

/-- `s` with everything blanked that an E command writes after its launch. -/
def State.unwritten (s : State) : State :=
  { s with
    result := 0#8, nak := false, twcr := 0#8, twdr := 0#8, twsrCode := 0#5, buf := [], bph := .idle, pend := none,
    sch := .idle, answer := none, trace := [] }

theorem storeByte_unwritten (dest : Dest) (r : Response) (s : State) :
    (storeByte dest r s).unwritten = s.unwritten := by
  rcases storeByte_cases dest r s with e | ⟨v, -, -, e⟩ | ⟨i, v, -, -, e⟩ <;> rw [e] <;> rfl

theorem opDone_unwritten (c : Instr) (p : Prim) (after : After) (r : Response) (d : Done) (s : State) :
    (opDone c p after r d s).unwritten = s.unwritten :=
  storeByte_unwritten after.dest r (recordNak after.nak r (completed (p.busOp s.bph) d (issue p s)))

theorem opDone_trace (c : Instr) (p : Prim) (after : After) (r : Response) (d : Done) (s : State) :
    (opDone c p after r d s).trace = s.trace ++ [d.event] :=
  storeByte_trace (s := recordNak after.nak r (completed (p.busOp s.bph) d (issue p s))) after.dest r

/-- The frame of a walk, and the events it adds to the trace. -/
theorem Walk.frame (h : Walk c s ms es t) : t.unwritten = s.unwritten ∧ t.trace = s.trace ++ es := by
  induction h with
  | nil s => exact ⟨rfl, (List.append_nil _).symm⟩
  | internal _ _ hi _ ih =>
    obtain ⟨hkept, htrace⟩ := ih
    rw [hkept, htrace]
    rcases hi with rfl | rfl <;> exact ⟨rfl, rfl⟩
  | op _ _ _ _ ih =>
    obtain ⟨hkept, htrace⟩ := ih
    rw [hkept, htrace, opDone_unwritten, opDone_trace, List.append_assoc]
    exact ⟨rfl, rfl⟩

/-- The action of a label stays while BUF and the parameters do. -/
theorem tableOf_some_congr {a : Action} (ha : tableOf c s l i = some a) (hb : t.buf = s.buf)
    (hp : t.params = s.params) : tableOf c t l i = some a := by
  rw [tableOf_congr c hb hp, ha]

theorem blockAction_withMoves (op : Op) (i : Byte) (a : Action) (rest : List Move) (s : State) :
    blockAction op i a (withMoves rest s) = withMoves rest (blockAction op i a s) := by
  cases a <;> rfl

theorem storeByte_withMoves (dest : Dest) (r : Response) (rest : List Move) (s : State) :
    storeByte dest r (withMoves rest s) = withMoves rest (storeByte dest r s) := by
  cases dest <;> cases r <;> rfl

/-- The step of a BLOCK move that is due. -/
theorem moveStep_block {a : Action} (rest : List Move) (hr : Ready c l i s) (hc : decode s.lc = .command c)
    (ha : tableOf c s l i = some a) :
    moveStep .block (withMoves rest s) = .next (withMoves rest (blockAction c.op i a s)) := by
  have hready : Ready c l i (withMoves rest s) := hr
  obtain ⟨hs, -, -⟩ := hr
  have hexec : runningStep (withMoves rest s) = exec c (withMoves rest s) := runningStep_run hs hc
  rw [moveStep, hexec, hready.exec_eq (tableOf_some_congr ha rfl rfl), blockAction_withMoves]

/-- The step of an ENV move that completes the operation just issued. -/
theorem moveStep_env {p : Prim} {after : After} {r : Response} {d : Done} (rest : List Move) (hr : Ready c l i s)
    (hc : decode s.lc = .command c) (ha : tableOf c s l i = some (.issue p after))
    (hd : answered (p.busOp s.bph) r s.bph (twdrIssued (p.busOp s.bph) s.twdr) = .completes d) :
    moveStep (.env r) (withMoves rest (issue p s)) = .next (withMoves rest (opDone c p after r d s)) := by
  obtain ⟨hs, -, -⟩ := hr
  have hexec : envStep r (withMoves rest (issue p s)) = exec c (answering r (withMoves rest (issue p s))) :=
    envStep_run r hs rfl hc
  have hg : Given c l i (p.busOp s.bph) r (answering r (withMoves rest (issue p s))) := ⟨hs, rfl, rfl⟩
  rw [moveStep, hexec, hg.exec_eq (tableOf_some_congr ha rfl rfl), envAction_completes (d := d) hd]
  exact congrArg (fun u => Host.Outcome.next (goto c.op after.next after.i u))
    (storeByte_withMoves after.dest r rest (recordNak after.nak r (completed (p.busOp s.bph) d (issue p s))))

/-- The latched command stays through a walk's steps (R25). -/
theorem opDone_lc (c : Instr) (p : Prim) (after : After) (r : Response) (d : Done) (s : State) :
    (opDone c p after r d s).lc = s.lc :=
  storeByte_lc (s := recordNak after.nak r (completed (p.busOp s.bph) d (issue p s))) after.dest r

/-- The machine makes a walk, move by move. -/
theorem Walk.run (h : Walk c s ms es t) (hc : decode s.lc = .command c) :
    core.run ms.length (withMoves ms s) = .next (withMoves [] t) := by
  induction h with
  | nil s => rfl
  | @internal s t l i a ms es hr ha hi _ ih =>
    rw [← ih (by rwa [blockAction_lc])]
    exact run_cons (s := withMoves (.block :: ms) s) ms.length rfl (moveStep_block ms hr hc ha)
  | @op s t l i p after r d ms es hr ha hd _ ih =>
    rw [← ih (by rwa [opDone_lc])]
    have hissue := run_cons (s := withMoves (.block :: .env r :: ms) s) (ms.length + 1) rfl
      (moveStep_block (s := s) (.env r :: ms) hr hc ha)
    exact hissue.trans (run_cons (s := withMoves (.env r :: ms) (issue p s)) ms.length rfl
      (moveStep_env (s := s) ms hr hc ha hd))

end Sys2Proof.Machine
end

section
/-! PROOFS. A command as a chain of bus operations (40_bus_primitives.md R103 to R107; 41_eeprom_ops.md R130 to R133): what each operation leaves of the registers that a running command writes, the poll, the launch and the end. -/

namespace Sys2Proof.Machine
open Sys2Proof.Claim

/-- What a running E command reads and writes between two bus operations. -/
structure Regs where
  /-- BPH (R39). -/
  bph : Phase
  /-- SSTAT.NAK (R29). -/
  nak : Bool
  /-- TWDR (R34). -/
  twdr : Byte
  /-- TWCR (R32). -/
  twcr : Byte
  /-- TWSR.CODE (R36). -/
  code : BitVec 5
  /-- BUF (R38). -/
  buf : List Host.Cell
  /-- RESULT (R26). -/
  result : Byte
  /-- The parameters (R8), which no step writes. -/
  params : Params

/-- The registers as they stand in a state. -/
def State.regs (s : State) : Regs :=
  ⟨s.bph, s.nak, s.twdr, s.twcr, s.twsrCode, s.buf, s.result, s.params⟩

/-- Command `c` stands at label `l` with index `i`, its BLOCK step due, and the registers hold `g`. -/
def Stands (c : Instr) (l : Label) (i : Byte) (g : Regs) (s : State) : Prop := Ready c l i s ∧ s.regs = g

/-- The command has ended and left `g` (R100). -/
def Over (g : Regs) (s : State) : Prop := s.sch = .idle ∧ s.pend = none ∧ s.answer = none ∧ s.regs = g

/-- From every state of `P` the command walks to a state of `Q`. -/
def Path (c : Instr) (P : State → Prop) (ms : List Move) (es : List BusEvent) (Q : State → Prop) : Prop :=
  ∀ s, P s → ∃ t, Walk c s ms es t ∧ Q t

variable {c : Instr} {l l' : Label} {i i' : Byte} {g : Regs}

theorem Path.trans {P Q R : State → Prop} {ms ms' : List Move} {es es' : List BusEvent} (h : Path c P ms es Q)
    (h' : Path c Q ms' es' R) : Path c P (ms ++ ms') (es ++ es') R := fun s hs => by
  obtain ⟨t, hw, ht⟩ := h s hs
  obtain ⟨u, hw', hu⟩ := h' t ht
  exact ⟨u, hw.trans hw', hu⟩

/-! ### One bus operation -/

/-- A whole bus operation, and the registers it leaves. -/
theorem path_op {p : Prim} {after : After} {r : Response} (d : Done) {g' : Regs}
    (ht : ∀ s, s.regs = g → tableOf c s l i = some (.issue p after))
    (hd : answered (p.busOp g.bph) r g.bph (twdrIssued (p.busOp g.bph) g.twdr) = .completes d)
    (hg : ∀ s, s.regs = g → (opDone c p after r d s).regs = g') :
    Path c (Stands c l i g) (opMoves r) [d.event] (Stands c after.next after.i g') := fun s ⟨hr, hs⟩ => by
  have hd' : answered (p.busOp s.bph) r s.bph (twdrIssued (p.busOp s.bph) s.twdr) = .completes d := by
    rw [← hs] at hd; exact hd
  have hready : Ready c after.next after.i (opDone c p after r d s) := by
    refine ⟨rfl, ?_, ?_⟩ <;> simp [opDone]
  exact ⟨_, .op hr (ht s hs) hd' (.nil _), hready, hg s hs⟩

/-- The event of a start: repeated when the bus is not idle (R103). -/
def startEvent (bph : Phase) : BusEvent := if bph != .idle then .repStart else .start

/-- The registers after a start (R103). -/
def Regs.started (g : Regs) : Regs :=
  { g with
    bph := .addr, twcr := 0xA4#8
    code := (if g.bph != .idle then Status.repStart else .start).code g.params.codes }

/-- The registers after a stop (R104). -/
def Regs.stopped (g : Regs) : Regs := { g with bph := .idle, twcr := 0x04#8, code := g.params.codes.noInfo }

/-- The registers after the device address with acknowledge `a`, recorded in NAK if `wanted` (R29, R105). -/
def Regs.addressed (dir : Dir) (wanted a : Bool) (g : Regs) : Regs :=
  { g with
    bph := (addrDone dir a).2, nak := g.nak || (wanted && !a), twdr := addrByte g.params.eeSla7 dir, twcr := 0x84#8
    code := (addrDone dir a).1.code g.params.codes }

/-- The registers after the data byte `b` with acknowledge `a` (R29, R106). -/
def Regs.sent (b : Byte) (a : Bool) (g : Regs) : Regs :=
  { g with
    nak := g.nak || !a, twdr := b, twcr := 0x84#8
    code := (if a then Status.dataTxAck else .dataTxNack).code g.params.codes }

/-- The registers after the byte `v` is received with acknowledge bit `k` (R107). -/
def Regs.received (k : Bool) (v : Byte) (g : Regs) : Regs :=
  { g with
    twdr := v, twcr := twcrCompleted (.read k)
    code := (if k then Status.dataRxAck else .dataRxNack).code g.params.codes }

theorem ackOf_beq_nack (a : Bool) : (ackOf a == .nack) = !a := by cases a <;> rfl

/-- A start, which leads to phase ADDR (R103). -/
theorem path_start (ht : ∀ s, tableOf c s l i = some (.issue .start (andThen l' i'))) :
    Path c (Stands c l i g) (opMoves .ok) [startEvent g.bph] (Stands c l' i' g.started) := by
  refine path_op (g := g) ⟨if g.bph != .idle then .repStart else .start, .addr, g.twdr, startEvent g.bph⟩
    (fun s _ => ht s) rfl fun s hs => ?_
  subst hs
  simp only [opDone, andThen, recordNak_unwanted, storeByte_drop]
  rfl

/-- A stop, which leads to phase IDLE (R104). -/
theorem path_stop (ht : ∀ s, tableOf c s l i = some (.issue .stop (andThen l' i'))) :
    Path c (Stands c l i g) (opMoves .ok) [.stop] (Stands c l' i' g.stopped) := by
  refine path_op (g := g) ⟨.noInfo, .idle, g.twdr, .stop⟩ (fun s _ => ht s) rfl fun s hs => ?_
  subst hs
  simp only [opDone, andThen, recordNak_unwanted, storeByte_drop]
  rfl

/-- The device address, with `nak(r)` in the completion action or without it (R105, R131). -/
theorem path_address {dir : Dir} {wanted : Bool} (a : Bool)
    (ht : ∀ s, tableOf c s l i = some (.issue (.txaddr s.params.eeSla7 dir) ⟨wanted, .drop, l', i'⟩)) :
    Path c (Stands c l i g) (opMoves (ackOf a)) [.write (addrByte g.params.eeSla7 dir) a]
      (Stands c l' i' (g.addressed dir wanted a)) := by
  refine path_op (g := g) (after := ⟨wanted, .drop, l', i'⟩) (p := .txaddr g.params.eeSla7 dir)
    (writeDone (addrByte g.params.eeSla7 dir) (.addr dir) a g.bph (addrByte g.params.eeSla7 dir))
    (fun s hs => (ht s).trans (by rw [← hs]; rfl)) (answered_ackOf _ _ a _ _) fun s hs => ?_
  subst hs
  simp only [opDone, storeByte_drop, recordNak, ackOf_beq_nack]
  rfl

/-- A data byte, with `nak(r)` in the completion action (R106). -/
theorem path_byte {b : Byte} (a : Bool)
    (ht : ∀ s, s.regs = g → tableOf c s l i = some (.issue (.txbyte b) (nakThen l' i'))) :
    Path c (Stands c l i g) (opMoves (ackOf a)) [.write b a] (Stands c l' i' (g.sent b a)) := by
  refine path_op (g := g) (writeDone b .data a g.bph b) ht (answered_ackOf b .data a _ _) fun s hs => ?_
  subst hs
  simp only [opDone, nakThen, storeByte_drop, recordNak, ackOf_beq_nack, Bool.true_and]
  rfl

/-- A byte received into RESULT (R107, R135). -/
theorem path_receive_result {k : Bool} (v : Byte)
    (ht : ∀ s, tableOf c s l i = some (.issue (.rxbyte k) (keepThen .result l' i'))) :
    Path c (Stands c l i g) (opMoves (.data v)) [.read v k] (Stands c l' i' { g.received k v with result := v }) := by
  refine path_op (g := g) ⟨if k then .dataRxAck else .dataRxNack, g.bph, v, .read v k⟩ (fun s _ => ht s) rfl
    fun s hs => ?_
  subst hs
  simp only [opDone, keepThen, recordNak_unwanted]
  rfl

/-- A byte received into BUF (R107, R137). -/
theorem path_receive_buf {k : Bool} {j : Byte} (v : Byte)
    (ht : ∀ s, tableOf c s l i = some (.issue (.rxbyte k) (keepThen (.buf j) l' i'))) :
    Path c (Stands c l i g) (opMoves (.data v)) [.read v k]
      (Stands c l' i' { g.received k v with buf := memWrite g.buf j.toNat v }) := by
  refine path_op (g := g) ⟨if k then .dataRxAck else .dataRxNack, g.bph, v, .read v k⟩ (fun s _ => ht s) rfl
    fun s hs => ?_
  subst hs
  simp only [opDone, keepThen, recordNak_unwanted]
  rfl

/-- The label END (R100). -/
theorem path_finish : Path c (Stands c .fin i g) [.block] [] (Over g) := fun s ⟨hr, hs⟩ =>
  have ⟨_, hpend, hans⟩ := hr
  ⟨_, .internal hr (tableOf_fin c s i) (.inr rfl) (.nil _), rfl, hpend, hans, hs⟩

/-! ### The write-completion poll -/

/-- The check leads to W3 if the address byte was acknowledged, and back to W0 if not (R133). -/
theorem path_check (hp : Polls c) (a : Bool) (hcodes : Distinct g.params.codes)
    (hg : g.code = (addrDone .w a).1.code g.params.codes) :
    Path c (Stands c .w2 i g) [.block] [] (Stands c (if a then .w3 else .w0) i g) := fun s ⟨hr, hs⟩ => by
  subst hs
  have hcheck : (s.status = Status.slaWAck.value s.params.codes) ↔ a = true := by
    rw [status_eq, show s.twsrCode = _ from hg]
    refine (BitVec.append_left_inj _).trans ⟨fun e => ?_, fun e => by rw [e]; rfl⟩
    have hst : (addrDone .w a).1 = .slaWAck := hcodes.code_inj e
    revert hst
    cases a <;> decide
  have ⟨_, hpend, hans⟩ := hr
  refine ⟨_, .internal hr (hp s .w2 i (by simp)) (.inl rfl) (.nil _), ⟨?_, hpend, hans⟩, rfl⟩
  simp only [blockAction, hcheck]
  rfl

/-- One attempt of the poll: start, device address, check (R133). -/
theorem path_attempt (hp : Polls c) (a : Bool) (hcodes : Distinct g.params.codes) :
    Path c (Stands c .w0 i g) (opMoves .ok ++ opMoves (ackOf a) ++ [.block])
      [startEvent g.bph, .write (addrByte g.params.eeSla7 .w) a]
      (Stands c (if a then .w3 else .w0) i (g.started.addressed .w false a)) :=
  ((path_start fun s => hp s .w0 i (by simp)).trans
    (path_address a fun s => hp s .w1 i (by simp))).trans (path_check hp a hcodes rfl)

/-- The registers after the poll: the device address is in TWDR, the bus is idle (R133). -/
def Regs.polled (g : Regs) : Regs := { g.stopped with twdr := addrByte g.params.eeSla7 .w }

/-- The poll with `k` busy answers, and END: induction on `k`, each busy answer being one attempt more (R133). -/
theorem path_poll (hp : Polls c) : ∀ (k : Nat) {g : Regs}, Distinct g.params.codes →
    Path c (Stands c .w0 i g) (pollMoves k) (pollTrace (addrByte g.params.eeSla7 .w) (g.bph != .idle) k)
      (Over g.polled)
  | 0, g, hcodes => by
    have hattempt := path_attempt (i := i) hp true hcodes
    have hstop := path_stop (g := g.started.addressed .w false true) fun s => hp s .w3 i (by simp)
    have hpolled : (g.started.addressed .w false true).stopped = g.polled := by
      simp [Regs.started, Regs.addressed, Regs.stopped, Regs.polled]
    exact hpolled ▸ (hattempt.trans hstop).trans path_finish
  | k + 1, g, hcodes => by
    have hattempt := path_attempt (i := i) hp false hcodes
    have hrest := path_poll hp k (g := g.started.addressed .w false false) hcodes
    have hpolled : (g.started.addressed .w false false).polled = g.polled := by
      simp [Regs.started, Regs.addressed, Regs.stopped, Regs.polled]
    exact hpolled ▸ hattempt.trans hrest

/-! ### The launch and the end -/

/-- The state after the accepted launch of `c` (R84). -/
def launched (c : Instr) (s : State) : State := accept c.op (setCmdOp (cwOp (encode c)) s)

/-- The staged word of `c` is launched in its legal phase (R84). -/
theorem moveStep_launch {s : State} (rest : List Move) (ha : s.cmdA = cwA (encode c)) (hb : s.cmdB = cwB (encode c))
    (hf : s.cmdF = cwF (encode c)) (hs : s.sch = .idle) (hz : lengthZero c = false)
    (hp : legalPhase c.op s.bph = true) :
    moveStep (.hostWrite 0x000#9 (cwOp (encode c))) (withMoves rest s) = .next (withMoves rest (launched c s)) ∧
      (launched c s).lc = encode c := by
  have hword : cmdWordOf (cwOp (encode c)) s.cmdA s.cmdB s.cmdF = encode c := by
    rw [ha, hb, hf, cmdWordOf_fields]
  refine ⟨?_, hword⟩
  have hexec := launchWrite_command (s := withMoves rest s) (v := cwOp (encode c)) (c := c)
    (by simp only [withMoves_cmdA, withMoves_cmdB, withMoves_cmdF, hword, decodeOfEncodeIsIdentity c])
  have hlaunch := hostWriteStep_launch (s := withMoves rest s) (cwOp (encode c)) hs
  have haccept := launch_accept (c := c) (s := setCmdOp (cwOp (encode c)) (withMoves rest s)) hz hp
  rw [moveStep, hlaunch, hexec, exec_idle (by exact hs), haccept]
  rfl

/-- A staged E command runs from its launch to its end: the path from its first label, as a run of the machine. -/
theorem run_command {s : State} {ms : List Move} {es : List BusEvent} (hz : lengthZero c = false)
    (hlegal : legalPhase c.op .idle = true) (hr : AtRest s) (hst : Staged c ms s)
    (hp : Path c (Stands c (firstLabel c.op) 0#8 s.regs) ms es (Over g))
    (hg : g.stopped = g) (hparams : g.params = s.params) :
    ∃ t, core.run s.moves.length s = .next t ∧ EndsClean s t (encode c) ∧ t.trace = s.trace ++ es ∧ t.regs = g := by
  obtain ⟨hsch, hbph, hpend, hans, -⟩ := hr
  obtain ⟨ha, hb, hf, hm⟩ := hst
  obtain ⟨hlaunch, hlc⟩ := moveStep_launch ms ha hb hf hsch hz (by rw [hbph]; exact hlegal)
  obtain ⟨t, hw, hidle, hnone, hno, hregs⟩ := hp (launched c s) ⟨⟨rfl, hpend, hans⟩, rfl⟩
  obtain ⟨hkept, htrace⟩ := hw.frame
  have hrun := hw.run (by rw [hlc, decodeOfEncodeIsIdentity])
  have kept {α : Type} (f : State → α) : f t.unwritten = f (launched c s).unwritten := congrArg f hkept
  have hstopped : t.regs = t.regs.stopped := by rw [hregs, hg]
  have hpar : t.params = s.params := (congrArg Regs.params hregs).trans hparams
  have hcode : t.twsrCode = s.params.codes.noInfo := (congrArg Regs.code hstopped).trans (by rw [← hpar]; rfl)
  refine ⟨withMoves [] t, ?_, ?_, htrace, hregs⟩
  · rw [hm]
    exact (run_cons ms.length hm hlaunch).trans hrun
  · exact ⟨hidle, congrArg Regs.bph hstopped, hnone, hno, rfl, congrArg Regs.twcr hstopped, hcode,
      (kept State.lc).trans hlc, kept State.errcode, kept State.cmdOp, kept State.cmdA, kept State.cmdB,
      kept State.cmdF, kept State.ovr, kept State.twbr, kept State.twsrPresc, hpar, kept State.reads⟩

end Sys2Proof.Machine
end

section
/-! PROOFS. Each E command from its launch to its end (41_eeprom_ops.md R133 to R140; 20_memory.md R58): its path, the bytes of BUF it sends or stores, and the run of the machine. -/

namespace Sys2Proof.Machine
open Sys2Proof.Claim

variable {c : Instr} {g : Regs}

/-- E.WAITRDY (R138). -/
theorem path_eWaitrdy (k : Nat) (hcodes : Distinct g.params.codes) (hb : g.bph = .idle) :
    Path .eWaitrdy (Stands .eWaitrdy .w0 0#8 g) (pollMoves k) (pollTrace (addrByte g.params.eeSla7 .w) false k)
      (Over g.polled) := by
  have hpoll := path_poll (i := 0#8) polls_eWaitrdy k hcodes
  rwa [hb] at hpoll

/-- Start, device address in direction W, memory address: the rows B0 to B2 of the four commands that have them
(R134 to R137). -/
theorem path_preamble {m : Byte} {j : Byte} (a1 a2 : Bool)
    (h0 : ∀ s i, tableOf c s .b0 i = some (.issue .start (andThen .b1 i)))
    (h1 : ∀ s i, tableOf c s .b1 i = some (.issue (sendSlaW s) (nakThen .b2 i)))
    (h2 : ∀ s, tableOf c s .b2 0#8 = some (.issue (.txbyte m) (nakThen .b3 j))) (hb : g.bph = .idle) :
    Path c (Stands c .b0 0#8 g) (opMoves .ok ++ opMoves (ackOf a1) ++ opMoves (ackOf a2))
      [.start, .write (addrByte g.params.eeSla7 .w) a1, .write m a2]
      (Stands c .b3 j ((g.started.addressed .w true a1).sent m a2)) := by
  have hstart := path_start (g := g) fun s => h0 s 0#8
  rw [hb] at hstart
  exact (hstart.trans (path_address a1 fun s => h1 s 0#8)).trans (path_byte a2 fun s _ => h2 s)

/-- E.WRBYTE (R134). -/
theorem path_eWrbyte (a d : Byte) (a1 a2 a3 : Bool) (k : Nat) (hcodes : Distinct g.params.codes) (hb : g.bph = .idle) :
    Path (.eWrbyte a d) (Stands (.eWrbyte a d) .b0 0#8 g)
      (opMoves .ok ++ opMoves (ackOf a1) ++ opMoves (ackOf a2) ++ opMoves (ackOf a3) ++ opMoves .ok ++ pollMoves k)
      ([BusEvent.start, .write (addrByte g.params.eeSla7 .w) a1, .write a a2, .write d a3, .stop] ++
        pollTrace (addrByte g.params.eeSla7 .w) false k)
      (Over { g.polled with nak := g.nak || !a1 || !a2 || !a3 }) :=
  (((path_preamble a1 a2 (fun _ _ => rfl) (fun _ _ => rfl) (fun _ => rfl) hb).trans
    (path_byte a3 fun _ _ => rfl)).trans (path_stop fun _ => rfl)).trans (path_poll (polls_eWrbyte a d) k hcodes)

/-- The rows B0 to B4 of the two commands that read: the memory address written, then a repeated start and the device
address in direction R (R135, R137). -/
theorem path_readPreamble {m : Byte} {l₅ : Label} (a1 a2 a3 : Bool)
    (h0 : ∀ s i, tableOf c s .b0 i = some (.issue .start (andThen .b1 i)))
    (h1 : ∀ s i, tableOf c s .b1 i = some (.issue (sendSlaW s) (nakThen .b2 i)))
    (h2 : ∀ s i, tableOf c s .b2 i = some (.issue (.txbyte m) (nakThen .b3 i)))
    (h3 : ∀ s i, tableOf c s .b3 i = some (.issue .start (andThen .b4 i)))
    (h4 : ∀ s, tableOf c s .b4 0#8 = some (.issue (sendSlaR s) (nakThen l₅ 0#8))) (hb : g.bph = .idle) :
    Path c (Stands c .b0 0#8 g)
      (opMoves .ok ++ opMoves (ackOf a1) ++ opMoves (ackOf a2) ++ opMoves .ok ++ opMoves (ackOf a3))
      [.start, .write (addrByte g.params.eeSla7 .w) a1, .write m a2, .repStart,
        .write (addrByte g.params.eeSla7 .r) a3]
      (Stands c l₅ 0#8 ((((g.started.addressed .w true a1).sent m a2).started).addressed .r true a3)) := by
  have hpre := path_preamble a1 a2 h0 h1 (fun s => h2 s 0#8) hb
  have hrep := path_start (g := (g.started.addressed .w true a1).sent m a2) fun s => h3 s 0#8
  rw [show startEvent ((g.started.addressed .w true a1).sent m a2).bph = .repStart by cases a1 <;> rfl] at hrep
  exact (hpre.trans hrep).trans (path_address a3 fun s => h4 s)

/-- E.RDBYTE (R135). -/
theorem path_eRdbyte (a v : Byte) (a1 a2 a3 : Bool) (hb : g.bph = .idle) :
    Path (.eRdbyte a) (Stands (.eRdbyte a) .b0 0#8 g)
      (opMoves .ok ++ opMoves (ackOf a1) ++ opMoves (ackOf a2) ++ opMoves .ok ++ opMoves (ackOf a3) ++
        opMoves (.data v) ++ opMoves .ok ++ [.block])
      [.start, .write (addrByte g.params.eeSla7 .w) a1, .write a a2, .repStart,
        .write (addrByte g.params.eeSla7 .r) a3, .read v false, .stop]
      (Over { g.stopped with nak := g.nak || !a1 || !a2 || !a3, twdr := v, result := v }) :=
  (((path_readPreamble a1 a2 a3 (fun _ _ => rfl) (fun _ _ => rfl) (fun _ _ => rfl) (fun _ _ => rfl) (fun _ => rfl)
    hb).trans (path_receive_result v fun _ => rfl)).trans (path_stop fun _ => rfl)).trans path_finish

/-- The events of the data bytes of E.WRPAGE from BUF[j] on, one for each acknowledge (R136). -/
def pageEvents (buf : List Host.Cell) : Nat → List Bool → List BusEvent
  | _, [] => []
  | j, a :: acks => .write (memRead buf j) a :: pageEvents buf (j + 1) acks

theorem pageEvents_eq_zipWith (buf : List Host.Cell) (j : Nat) (acks : List Bool) :
    pageEvents buf j acks = (List.range' j acks.length).zipWith (fun x a => .write (memRead buf x) a) acks := by
  induction acks generalizing j with
  | nil => rfl
  | cons a acks ih => rw [pageEvents, ih, List.length_cons, List.range'_succ, List.zipWith_cons_cons]

/-- The data bytes of E.WRPAGE from BUF[j] to BUF[7], and the stop: induction on the acknowledges to come (R136). -/
theorem path_page (a : Byte) : ∀ (acks : List Bool) (j : Nat) {g : Regs}, acks ≠ [] → j + acks.length = 8 →
    Path (.eWrpage a) (Stands (.eWrpage a) .b3 (BitVec.ofNat 8 j) g)
      (acks.flatMap (fun x => opMoves (ackOf x)) ++ opMoves .ok) (pageEvents g.buf j acks ++ [BusEvent.stop])
      (Stands (.eWrpage a) .w0 7#8
        { g.stopped with nak := g.nak || acks.any (fun x => !x), twdr := memRead g.buf 7 })
  | [], _, _, hne, _ => absurd rfl hne
  | [x], j, g, _, hj => by
    obtain rfl : j = 7 := by simpa using hj
    have hbyte := path_byte (c := .eWrpage a) (l := .b3) (i := 7#8) (l' := .b4) (i' := 7#8) (g := g)
      (b := memRead g.buf 7) x fun s hs => by rw [← hs]; rfl
    rw [List.any_cons, List.any_nil, Bool.or_false]
    exact hbyte.trans (path_stop fun _ => rfl)
  | x :: y :: acks, j, g, _, hj => by
    rw [List.length_cons, List.length_cons] at hj
    have htoNat : (BitVec.ofNat 8 j).toNat = j := by rw [BitVec.toNat_ofNat]; omega
    have hbyte := path_byte (c := .eWrpage a) (l := .b3) (i := BitVec.ofNat 8 j) (l' := .b3)
      (i' := BitVec.ofNat 8 (j + 1)) (g := g) (b := memRead g.buf j) x fun s hs => by
        rw [tableOf_eWrpage_b3, htoNat, if_pos (by omega : j < 7), ← hs, ← BitVec.ofNat_add_ofNat]
        rfl
    have hrest := path_page a (y :: acks) (j + 1) (g := g.sent (memRead g.buf j) x) (by simp)
      (by rw [List.length_cons]; omega)
    rw [List.any_cons, ← Bool.or_assoc]
    exact hbyte.trans hrest

/-- E.WRPAGE (R136). -/
theorem path_eWrpage (a : Byte) (a1 a2 : Bool) (acks : List Bool) (k : Nat) (hlen : acks.length = 8)
    (hcodes : Distinct g.params.codes) (hb : g.bph = .idle) :
    Path (.eWrpage a) (Stands (.eWrpage a) .b0 0#8 g)
      (opMoves .ok ++ opMoves (ackOf a1) ++ opMoves (ackOf a2) ++
        (acks.flatMap (fun x => opMoves (ackOf x)) ++ opMoves .ok) ++ pollMoves k)
      ([BusEvent.start, .write (addrByte g.params.eeSla7 .w) a1, .write (eff a) a2] ++
        (pageEvents g.buf 0 acks ++ [BusEvent.stop]) ++ pollTrace (addrByte g.params.eeSla7 .w) false k)
      (Over { g.polled with nak := g.nak || !a1 || !a2 || acks.any (fun x => !x) }) :=
  ((path_preamble a1 a2 (fun _ _ => rfl) (fun _ _ => rfl) (fun _ => rfl) hb).trans
    (path_page a acks 0 (by rintro rfl; cases hlen) (by omega))).trans (path_poll (polls_eWrpage a) k hcodes)

/-- The bytes `vs` written from index `j` up. -/
def memFill (m : List Host.Cell) : Nat → List Byte → List Host.Cell
  | _, [] => m
  | j, v :: vs => memFill (memWrite m j v) (j + 1) vs

/-- The receives of E.RDSEQ from BUF[j] on, the last one not acknowledged, then the stop and END: induction on the
bytes to come (R137). -/
theorem path_receives (a n : Byte) : ∀ (vs : List Byte) (j : Nat) {g : Regs}, vs ≠ [] → j + vs.length = n.toNat →
    Path (.eRdseq a n) (Stands (.eRdseq a n) (if j + 1 < n.toNat then .b5 else .b6) (BitVec.ofNat 8 j) g)
      (vs.flatMap (fun v => opMoves (.data v)) ++ opMoves .ok ++ [.block])
      (vs.dropLast.map (fun v => BusEvent.read v true) ++ [BusEvent.read (vs.getLastD 0#8) false, .stop])
      (Over { g.stopped with twdr := vs.getLastD 0#8, buf := memFill g.buf j vs })
  | [], _, _, hne, _ => absurd rfl hne
  | [v], j, g, _, hj => by
    rw [List.length_singleton] at hj
    have hlast : (n - 1#8).toNat = j := by bv_omega
    rw [if_neg (by omega : ¬ j + 1 < n.toNat)]
    have hread := path_receive_buf (c := .eRdseq a n) (l := .b6) (i := BitVec.ofNat 8 j) (l' := .b7)
      (i' := BitVec.ofNat 8 j) (k := false) (j := n - 1#8) (g := g) v fun _ => rfl
    rw [hlast] at hread
    exact (hread.trans (path_stop fun _ => rfl)).trans path_finish
  | v :: w :: vs, j, g, _, hj => by
    rw [List.length_cons, List.length_cons] at hj
    have hn := n.isLt
    have htoNat : (BitVec.ofNat 8 j).toNat = j := by rw [BitVec.toNat_ofNat]; omega
    rw [if_pos (by omega : j + 1 < n.toNat)]
    have hread := path_receive_buf (c := .eRdseq a n) (l := .b5) (i := BitVec.ofNat 8 j)
      (l' := if j + 1 + 1 < n.toNat then .b5 else .b6)
      (i' := BitVec.ofNat 8 (j + 1)) (k := true) (j := BitVec.ofNat 8 j) (g := g) v fun s => by
        have hnext : j + 1 < n.toNat - 1 ↔ j + 1 + 1 < n.toNat := by omega
        simp only [tableOf, tableERdseq, htoNat, hnext, nextIndex, BitVec.ofNat_add_ofNat]
    rw [htoNat] at hread
    have hrest := path_receives a n (w :: vs) (j + 1)
      (g := { g.received true v with buf := memWrite g.buf j v }) (by simp) (by rw [List.length_cons]; omega)
    exact hread.trans hrest

/-- E.RDSEQ (R137). -/
theorem path_eRdseq (a n : Byte) (a1 a2 a3 : Bool) (vs : List Byte) (hn : n ≠ 0#8) (hlen : vs.length = n.toNat)
    (hb : g.bph = .idle) :
    Path (.eRdseq a n) (Stands (.eRdseq a n) .b0 0#8 g)
      (opMoves .ok ++ opMoves (ackOf a1) ++ opMoves (ackOf a2) ++ opMoves .ok ++ opMoves (ackOf a3) ++
        (vs.flatMap (fun v => opMoves (.data v)) ++ opMoves .ok ++ [.block]))
      ([BusEvent.start, .write (addrByte g.params.eeSla7 .w) a1, .write a a2, .repStart,
        .write (addrByte g.params.eeSla7 .r) a3] ++
        (vs.dropLast.map (fun v => BusEvent.read v true) ++ [BusEvent.read (vs.getLastD 0#8) false, .stop]))
      (Over { g.stopped with
        nak := g.nak || !a1 || !a2 || !a3, twdr := vs.getLastD 0#8, buf := memFill g.buf 0 vs }) := by
  have hpos : 0 < n.toNat := by bv_omega
  exact (path_readPreamble a1 a2 a3 (fun _ _ => rfl) (fun _ _ => rfl) (fun _ _ => rfl) (fun _ _ => rfl)
    (fun _ => rfl) hb).trans (path_receives a n vs 0 (by rintro rfl; exact hpos.ne hlen) (by omega))

/-- BUF filled by E.RDSEQ keeps its canonical form (R38). -/
theorem wf_memFill : ∀ (vs : List Byte) (m : List Host.Cell) (j : Nat), Memory.wf m = true → j + vs.length ≤ 256 →
    Memory.wf (memFill m j vs) = true
  | [], _, _, hm, _ => hm
  | v :: vs, m, j, hm, hj => by
    rw [List.length_cons] at hj
    exact wf_memFill vs _ (j + 1) (memWfFrom_memWrite v hm (Nat.zero_le _) (by simp [Config.bufSize]; omega))
      (by omega)

/-- BUF filled by E.RDSEQ: the bytes received where they were put, the rest as before (R137). -/
theorem memRead_memFill : ∀ (vs : List Byte) (m : List Host.Cell) (j x : Nat), Memory.wf m = true →
    j + vs.length ≤ 256 →
    memRead (memFill m j vs) x = if j ≤ x ∧ x < j + vs.length then vs.getD (x - j) 0#8 else memRead m x
  | [], m, j, x, _, _ => by simp [memFill]
  | v :: vs, m, j, x, hm, hj => by
    rw [List.length_cons] at hj ⊢
    have hwf := memWfFrom_memWrite v hm (Nat.zero_le j) (by simp [Config.bufSize]; omega)
    rw [memFill, memRead_memFill vs _ (j + 1) x hwf (by omega)]
    rcases Nat.lt_trichotomy x j with hlt | rfl | hgt
    · rw [if_neg (by omega), if_neg (by omega), memRead_memWrite_other v (by omega)]
    · rw [if_neg (by omega), if_pos (by omega), memRead_memWrite_same x v hm, Nat.sub_self]
      rfl
    · rw [memRead_memWrite_other v (by omega), show x - j = x - (j + 1) + 1 by omega, List.getD_cons_succ]
      simp only [show (j + 1 ≤ x ∧ x < j + 1 + vs.length) ↔ (j ≤ x ∧ x < j + (vs.length + 1)) by omega]

end Sys2Proof.Machine

namespace Sys2Proof.Claim
open Sys2Proof.Machine

/-- Settles O30, by `path_poll`. -/
theorem eWaitrdyMakesOneAttemptMore : Obligations.EWaitrdyMakesOneAttemptMore := by
  intro k s hr hst
  have ⟨_, hbph, _, _, hcodes⟩ := hr
  obtain ⟨t, hrun, hend, htrace, hg⟩ := run_command rfl rfl hr hst (path_eWaitrdy k hcodes hbph) rfl rfl
  exact ⟨t, hrun, hend, htrace, congrArg Regs.nak hg, congrArg Regs.result hg, congrArg Regs.buf hg,
    congrArg Regs.twdr hg⟩

/-- Settles O31: the data phase, then the poll. -/
theorem eWrbyteWritesAndWaits : Obligations.EWrbyteWritesAndWaits := by
  intro a d a1 a2 a3 k s hr hst
  have ⟨_, hbph, _, _, hcodes⟩ := hr
  obtain ⟨t, hrun, hend, htrace, hg⟩ := run_command rfl rfl hr hst (path_eWrbyte a d a1 a2 a3 k hcodes hbph) rfl rfl
  rw [← List.append_assoc] at htrace
  exact ⟨t, hrun, hend, htrace, congrArg Regs.nak hg, congrArg Regs.result hg, congrArg Regs.buf hg⟩

/-- Settles O32: the address phases, one receive, the stop. -/
theorem eRdbyteReturnsTheByteReceived : Obligations.ERdbyteReturnsTheByteReceived := by
  intro a v a1 a2 a3 s hr hst
  have ⟨_, hbph, _, _, _⟩ := hr
  obtain ⟨t, hrun, hend, htrace, hg⟩ := run_command rfl rfl hr hst (path_eRdbyte a v a1 a2 a3 hbph) rfl rfl
  exact ⟨t, hrun, hend, htrace, congrArg Regs.result hg, congrArg Regs.twdr hg, congrArg Regs.nak hg,
    congrArg Regs.buf hg⟩

/-- Settles O33: the rounded address, the data bytes by `path_page`, the poll. -/
theorem eWrpageSendsTheEightBytes : Obligations.EWrpageSendsTheEightBytes := by
  intro a a1 a2 acks k s hr hlen hst
  have ⟨_, hbph, _, _, hcodes⟩ := hr
  rw [List.append_assoc (_ ++ _) (acks.flatMap _)] at hst
  obtain ⟨t, hrun, hend, htrace, hg⟩ :=
    run_command rfl rfl hr hst (path_eWrpage a a1 a2 acks k hlen hcodes hbph) rfl rfl
  refine ⟨t, hrun, hend, ?_, congrArg Regs.nak hg, congrArg Regs.result hg, congrArg Regs.buf hg⟩
  rw [htrace, pageEvents_eq_zipWith, hlen, ← List.range_eq_range']
  simp only [List.append_assoc]
  rfl

/-- Settles O34: the address phases, the receives by `path_receives`, and BUF by `memRead_memFill`. -/
theorem eRdseqFillsTheBuffer : Obligations.ERdseqFillsTheBuffer := by
  intro a n a1 a2 a3 vs s hr hwf hn hlen hst
  have ⟨_, hbph, _, _, _⟩ := hr
  have hz : lengthZero (.eRdseq a n) = false := by simpa [lengthZero] using hn
  rw [List.append_assoc, List.append_assoc, ← List.append_assoc (vs.flatMap _)] at hst
  obtain ⟨t, hrun, hend, htrace, hg⟩ := run_command hz rfl hr hst (path_eRdseq a n a1 a2 a3 vs hn hlen hbph) rfl rfl
  refine ⟨t, hrun, hend, ?_, fun j => ?_, congrArg Regs.result hg, congrArg Regs.twdr hg, congrArg Regs.nak hg⟩
  · rw [htrace]
    simp only [List.append_assoc]
    rfl
  · have hbuf : t.buf = memFill s.buf 0 vs := congrArg Regs.buf hg
    have hn' := n.isLt
    rw [hbuf, memRead_memFill vs s.buf 0 j hwf (by omega), hlen, Nat.zero_add, Nat.sub_zero]
    simp only [Nat.zero_le, true_and]

end Sys2Proof.Claim
end

section
/-! PROOFS. The reference device along the bus events, and a walk of the block on the test bench (20_memory.md R66 to R71; 95_test_vectors.md). -/

namespace Sys2Proof.Machine
open Sys2Proof.Claim

/-! ### The device along a list of bus events -/

/-- REFDEV after a bus event (R68 to R71). -/
def RefDev.after (d : RefDev) : BusEvent → RefDev
  | .start => d.onStart
  | .repStart => d.onStart
  | .stop => d.onStop
  | .write b _ => (d.onWrite b).2
  | .read _ k => (d.onRead k).2
  | .fault _ => d

/-- REFDEV's part of a bus event is what REFDEV answers (R69, R70). -/
def RefDev.Agrees (d : RefDev) : BusEvent → Prop
  | .write b a => (d.onWrite b).1 = a
  | .read v k => (d.onRead k).1 = v
  | _ => True

/-- REFDEV gives its part of each of the bus events in turn, and is then `d'`. -/
def RefDev.Follows (d : RefDev) : List BusEvent → RefDev → Prop
  | [], d' => d = d'
  | e :: es, d' => d.Agrees e ∧ (d.after e).Follows es d'

theorem RefDev.Follows.append {es es' : List BusEvent} : ∀ {d d' d'' : RefDev}, d.Follows es d' → d'.Follows es' d'' →
    d.Follows (es ++ es') d'' := by
  induction es with
  | nil => rintro d _ d'' rfl h'; exact h'
  | cons e es ih => exact fun ⟨ha, h⟩ h' => ⟨ha, ih h h'⟩

/-- REFDEV answers an operation with the response that completes it to the event REFDEV agrees with. -/
theorem respond_of_agrees {q : BusOp} {r : Response} {bph : Phase} {twdr : Byte} {dn : Done} {d : RefDev}
    (hd : answered q r bph twdr = .completes dn) (ha : d.Agrees dn.event) : d.respond q = (r, d.after dn.event) := by
  cases q with
  | start rep => cases r <;> cases hd; cases rep <;> rfl
  | stop => cases r <;> cases hd; rfl
  | write b kind =>
    have hevent : ∀ a, (writeDone b kind a bph twdr).event = .write b a := by cases kind <;> exact fun _ => rfl
    have hrespond : ∀ a, d.Agrees (.write b a) → d.respond (.write b kind) = (ackOf a, d.after (.write b a)) := by
      rintro _ rfl; rfl
    cases r <;> cases hd <;> rw [hevent] at ha ⊢ <;> exact hrespond _ ha
  | read k => cases r <;> cases hd; exact Prod.ext (congrArg Response.data ha) rfl

/-! ### The block on the bench -/

/-- The bench comes from `b` to `b'`. -/
def Bench.Reaches (b b' : Bench) : Prop := ∃ k, b.run k = .next b'

theorem Bench.Reaches.trans {b b' b'' : Bench} (h : b.Reaches b') (h' : b'.Reaches b'') : b.Reaches b'' := by
  obtain ⟨j, hj⟩ := h
  obtain ⟨k, hk⟩ := h'
  exact ⟨j + k, (benchRun_add j k hj).trans hk⟩

theorem Bench.Reaches.of_step {b b' : Bench} (h : b.step = .next b') : b.Reaches b' :=
  ⟨1, benchRun_succ 0 h⟩

variable {c : Instr} {s t : State} {ms : List Move} {es : List BusEvent} {dev dev' : RefDev} {rest : List HostOp}

/-- The bench makes a walk with a device that gives the walk's events. -/
theorem Walk.reaches (h : Walk c s ms es t) (hc : decode s.lc = .command c) (hdev : dev.Follows es dev') :
    Bench.Reaches ⟨withMoves [] s, dev, rest⟩ ⟨withMoves [] t, dev', rest⟩ := by
  induction h generalizing dev with
  | nil s => exact ⟨0, by rw [show dev = dev' from hdev]; rfl⟩
  | @internal s t l i a ms es hr ha hi _ ih =>
    have ⟨hs, hpend, _⟩ := hr
    have hstep : Bench.step ⟨withMoves [] s, dev, rest⟩ = .next ⟨withMoves [] (blockAction c.op i a s), dev, rest⟩ :=
      (benchStep_block hs hpend).trans (benchMove_next (moveStep_block (s := s) [] hr hc ha))
    exact (Bench.Reaches.of_step hstep).trans (ih (by rwa [blockAction_lc]) hdev)
  | @op s t l i p after r d ms es hr ha hd _ ih =>
    obtain ⟨hagrees, hrest⟩ := hdev
    have ⟨hs, hpend, _⟩ := hr
    have hissue : Bench.step ⟨withMoves [] s, dev, rest⟩ = .next ⟨withMoves [] (issue p s), dev, rest⟩ :=
      (benchStep_block hs hpend).trans (benchMove_next (moveStep_block (s := s) [] hr hc ha))
    have hanswer : Bench.step ⟨withMoves [] (issue p s), dev, rest⟩ =
        .next ⟨withMoves [] (opDone c p after r d s), dev.after d.event, rest⟩ := by
      rw [benchStep_env (q := p.busOp s.bph) hs rfl, respond_of_agrees hd hagrees]
      exact benchMove_next (moveStep_env (s := s) [] hr hc ha hd)
    exact ((Bench.Reaches.of_step hissue).trans (.of_step hanswer)).trans (ih (by rwa [opDone_lc]) hrest)

/-- A host write at S_IDLE to an address other than CMD_OP's. -/
theorem reaches_write {h : HAddr} {v : Byte} (hs : s.sch = .idle) (hh : h ≠ 0x000#9) :
    Bench.Reaches ⟨s, dev, .write h v :: rest⟩ ⟨hostWrite h v (withMoves [] s), dev, rest⟩ :=
  .of_step ((benchStep_idle hs).trans (benchMove_next (hostWriteStep_other (s := withMoves [] s) v (.inl hh))))

/-- `ISSUE c; WAITIDLE` on the bench: the command walks to its end, and the host sees BUSY = 0 (R98). -/
theorem reaches_call {g g' : Regs} (hz : lengthZero c = false) (hlegal : legalPhase c.op .idle = true) (hr : Over g s)
    (hb : g.bph = .idle) (hp : Path c (Stands c (firstLabel c.op) 0#8 g) ms es (Over g')) (hdev : dev.Follows es dev') :
    ∃ t, Bench.Reaches ⟨s, dev, call c ++ rest⟩ ⟨t, dev', rest⟩ ∧ Over g' t := by
  obtain ⟨hs, hpend, hans, rfl⟩ := hr
  have hphase : legalPhase c.op s.bph = true := by rw [show s.bph = .idle from hb]; exact hlegal
  let u : State := setCmdA (cwA (encode c)) (setCmdB (cwB (encode c)) (setCmdF (cwF (encode c)) (withMoves [] s)))
  have hstage : Bench.Reaches ⟨s, dev, call c ++ rest⟩
      ⟨u, dev, .write 0x000#9 (cwOp (encode c)) :: .waitIdle :: rest⟩ :=
    ((reaches_write hs (by decide)).trans (reaches_write (by exact hs) (by decide))).trans
      (reaches_write (by exact hs) (by decide))
  obtain ⟨hlaunch, hlc⟩ := moveStep_launch (s := u) [] rfl rfl rfl hs hz hphase
  have hstart : Bench.Reaches ⟨u, dev, .write 0x000#9 (cwOp (encode c)) :: .waitIdle :: rest⟩
      ⟨withMoves [] (launched c u), dev, .waitIdle :: rest⟩ :=
    .of_step ((benchStep_idle (by exact hs)).trans (benchMove_next hlaunch))
  obtain ⟨t, hw, hidle, hover⟩ := hp (launched c u) ⟨⟨rfl, hpend, hans⟩, rfl⟩
  have hend := hw.reaches (rest := .waitIdle :: rest) (by rw [hlc, decodeOfEncodeIsIdentity]) hdev
  have hbusy : (withMoves [] t).busy = false := (busy_eq_false_iff _).mpr hidle
  have hwait : Bench.step ⟨withMoves [] t, dev', .waitIdle :: rest⟩ =
      .next ⟨hostRead 0x005#9 (withMoves [] t), dev', rest⟩ := by
    rw [benchStep_idle (by exact hidle), Bench.hostStep]
    simp only [hbusy, Bool.false_eq_true, if_false]
    exact benchMove_next rfl
  exact ⟨_, ((hstage.trans hstart).trans hend).trans (.of_step hwait), hidle, hover⟩

end Sys2Proof.Machine
end

section
/-! PROOFS. The round trips over the reference device (41_eeprom_ops.md R141; 20_memory.md R66 to R71): what the device makes of the bus events of each command, every acknowledge given. -/

namespace Sys2Proof.Machine
open Sys2Proof.Claim

/-- The device at rest: nothing pending, no write cycle (R67). -/
def RefDev.AtRest (d : RefDev) : Prop := d.pw = [] ∧ d.busyn = 0

/-! ### Address phases and the poll -/

@[simp] theorem addrByte_bit (sla : BitVec 7) (dir : Dir) : (addrByte sla dir).getLsbD 0 = dir.bit := by
  cases dir <;> revert sla <;> decide

/-- A device not in a write cycle acknowledges its address (R69). -/
theorem onWrite_address {d : RefDev} (hm : d.mode = .addr) (hb : d.busyn = 0) (dir : Dir) :
    d.onWrite (addrByte d.sla dir) = (true, { d with mode := if dir.bit then .rd else .wa }) := by
  simp [RefDev.onWrite, hm, hb, -BitVec.getLsbD_eq_getElem]

/-- A device in a write cycle refuses its address, once less from then on (R69). -/
theorem onWrite_busy {d : RefDev} {k : Nat} (hm : d.mode = .addr) (hb : d.busyn = k + 1) (dir : Dir) :
    d.onWrite (addrByte d.sla dir) = (false, { d with busyn := k, mode := .off }) := by
  simp [RefDev.onWrite, hm, hb]

theorem onStart_of_noPending {d : RefDev} (hpw : d.pw = []) : d.onStart = { d with mode := .addr } := by
  simp [RefDev.onStart, hpw]

theorem onStop_of_noPending {d : RefDev} (hpw : d.pw = []) : d.onStop = { d with mode := .idle } := by
  simp [RefDev.onStop, hpw]

theorem follows_write {d d' : RefDev} {b : Byte} {a : Bool} (h : d.onWrite b = (a, d')) : d.Follows [.write b a] d' :=
  ⟨congrArg Prod.fst h, congrArg Prod.snd h⟩

theorem follows_start {d : RefDev} (hpw : d.pw = []) {e : BusEvent} (he : e = .start ∨ e = .repStart) :
    d.Follows [e] { d with mode := .addr } := by
  rcases he with rfl | rfl <;> exact ⟨trivial, onStart_of_noPending hpw⟩

theorem follows_stop {d : RefDev} (hpw : d.pw = []) : d.Follows [.stop] { d with mode := .idle } :=
  ⟨trivial, onStop_of_noPending hpw⟩

/-- A start, repeated or not, and the address of a device at rest. -/
theorem follows_select {d : RefDev} {e : BusEvent} (hd : d.AtRest) (he : e = .start ∨ e = .repStart) (dir : Dir) :
    d.Follows [e, .write (addrByte d.sla dir) true] { d with mode := if dir.bit then .rd else .wa } := by
  obtain ⟨hpw, hbusy⟩ := hd
  exact (follows_start hpw he).append (follows_write (onWrite_address (d := { d with mode := .addr }) rfl hbusy dir))

/-- The device lets the poll through after as many refused attempts as its write cycle has left (R69, R133): induction
on these. -/
theorem follows_poll : ∀ (k : Nat) {d : RefDev} (rep : Bool), d.pw = [] → d.busyn = k →
    d.Follows (pollTrace (addrByte d.sla .w) rep k) { d with busyn := 0, mode := .idle }
  | 0, d, rep, hpw, hbusy => by
    have hselect := follows_select (e := if rep then .repStart else .start) ⟨hpw, hbusy⟩ (by cases rep <;> simp) .w
    have hend : { d with busyn := 0, mode := .idle } = { d with mode := .idle } := by rw [hbusy]
    rw [hend]
    exact hselect.append (follows_stop hpw)
  | k + 1, d, rep, hpw, hbusy => by
    have hstart := follows_start (e := if rep then .repStart else .start) hpw (by cases rep <;> simp)
    have hrefuse := follows_write (onWrite_busy (d := { d with mode := .addr }) (k := k) rfl hbusy .w)
    have hrest := follows_poll k (d := { d with busyn := k, mode := .off }) true hpw rfl
    exact hstart.append (hrefuse.append hrest)

/-- Start, device address, memory address: the pointer is set, and data bytes come next (R69). -/
theorem follows_preamble {d : RefDev} (hd : d.AtRest) (m : Byte) :
    d.Follows [.start, .write (addrByte d.sla .w) true, .write m true] { d with ptr := m, mode := .wd } :=
  (follows_select hd (.inl rfl) .w).append ⟨rfl, rfl⟩

/-- The same and then a repeated start with the address in direction R: reads come next (R69). -/
theorem follows_readPreamble {d : RefDev} (hd : d.AtRest) (m : Byte) :
    d.Follows [.start, .write (addrByte d.sla .w) true, .write m true, .repStart, .write (addrByte d.sla .r) true]
      { d with ptr := m, mode := .rd } :=
  (follows_preamble hd m).append (follows_select (d := { d with ptr := m, mode := .wd }) hd (.inr rfl) .r)

/-! ### Writes -/

/-- A stop with writes pending commits them, and the poll ends the write cycle, however long (R71, R133). -/
theorem follows_commit {d : RefDev} (hpw : d.pw ≠ []) :
    d.Follows (.stop :: pollTrace (addrByte d.sla .w) false (d.twr.headD 0))
      { d with mem := applyWrites d.pw d.mem, pw := [], busyn := 0, twr := d.twr.tail, mode := .idle } := by
  have hstop : d.Follows [.stop] { d with
      mem := applyWrites d.pw d.mem, pw := [], busyn := d.twr.headD 0, twr := d.twr.tail, mode := .idle } :=
    ⟨trivial, if_neg hpw⟩
  exact hstop.append (follows_poll _ false rfl rfl)

/-- The pending writes of the bytes `vs` from address `p` up. -/
def pendingFrom : Nat → List Byte → List (Byte × Byte)
  | _, [] => []
  | p, v :: vs => (BitVec.ofNat 8 p, v) :: pendingFrom (p + 1) vs

theorem pendingFrom_append (p : Nat) (vs ws : List Byte) :
    pendingFrom p (vs ++ ws) = pendingFrom p vs ++ pendingFrom (p + vs.length) ws := by
  induction vs generalizing p with
  | nil => rfl
  | cons v vs ih =>
    rw [List.cons_append, pendingFrom, ih, pendingFrom, List.cons_append, List.length_cons, Nat.add_right_comm,
      Nat.add_assoc]

theorem pendingFrom_below {p : Nat} {vs : List Byte} (hp : p + vs.length < 256) :
    ∀ e ∈ pendingFrom p vs, e.1 ≠ BitVec.ofNat 8 (p + vs.length) := by
  induction vs generalizing p with
  | nil => simp [pendingFrom]
  | cons v vs ih =>
    rw [List.length_cons] at hp ⊢
    intro e he
    rcases List.mem_cons.mp he with rfl | he
    · intro h
      have := congrArg BitVec.toNat h
      simp only [BitVec.toNat_ofNat] at this
      omega
    · rw [show p + (vs.length + 1) = p + 1 + vs.length by omega]
      exact ih (by omega) e he

/-- Pending writes at rising addresses, applied, fill the memory from the first address up (R71). -/
theorem applyWrites_pendingFrom {p : Nat} {vs : List Byte} (hp : p + vs.length ≤ 256) (m : List Host.Cell) :
    applyWrites (pendingFrom p vs) m = memFill m p vs := by
  induction vs generalizing p m with
  | nil => rfl
  | cons v vs ih =>
    rw [List.length_cons] at hp
    have htoNat : (BitVec.ofNat 8 p).toNat = p := by rw [BitVec.toNat_ofNat]; omega
    rw [memFill, ← ih (by omega)]
    exact congrArg (fun x => applyWrites (pendingFrom (p + 1) vs) (memWrite m x v)) htoNat

/-- The pointer after a data byte: it stays in the page that begins at `8 * q` (R69). -/
theorem pageNext_page : ∀ (q : Fin 32) (n : Fin 8),
    pageNext (BitVec.ofNat 8 (8 * q.val + n.val)) = BitVec.ofNat 8 (8 * q.val + (n.val + 1) % 8) := by
  decide +kernel

/-- A data byte goes to the pointer, replacing what is pending there (R69). -/
theorem onWrite_data {d : RefDev} (hm : d.mode = .wd) (hnew : ∀ e ∈ d.pw, e.1 ≠ d.ptr) (b : Byte) :
    d.onWrite b = (true, { d with pw := d.pw ++ [(d.ptr, b)], ptr := pageNext d.ptr }) := by
  have hkept : d.pw.filter (fun e => e.1 ≠ d.ptr) = d.pw := List.filter_eq_self.mpr fun e he => by simpa using hnew e he
  simp only [RefDev.onWrite, hm, hkept]

/-- Data bytes written from the start of the page `q`, of which `done` are pending already: induction on the bytes to
come (R69). -/
theorem follows_bytes (q : Fin 32) : ∀ (vs done : List Byte) {d : RefDev}, done.length + vs.length ≤ 8 →
    d.mode = .wd → d.ptr = BitVec.ofNat 8 (8 * q.val + done.length % 8) → d.pw = pendingFrom (8 * q.val) done →
    ∃ ptr, d.Follows (vs.map fun v => .write v true) { d with ptr := ptr, pw := pendingFrom (8 * q.val) (done ++ vs) }
  | [], done, d, _, _, _, hpw => ⟨d.ptr, by rw [List.append_nil, ← hpw]; rfl⟩
  | v :: vs, done, d, hlen, hm, hptr, hpw => by
    rw [List.length_cons] at hlen
    have hq := q.isLt
    rw [Nat.mod_eq_of_lt (by omega : done.length < 8)] at hptr
    have hwrite := onWrite_data hm (by rw [hpw, hptr]; exact pendingFrom_below (by omega)) v
    have hnext : pageNext d.ptr = BitVec.ofNat 8 (8 * q.val + (done ++ [v]).length % 8) := by
      rw [hptr, List.length_append]
      exact pageNext_page q ⟨done.length, by omega⟩
    have hpend : d.pw ++ [(d.ptr, v)] = pendingFrom (8 * q.val) (done ++ [v]) := by
      rw [pendingFrom_append, hpw, hptr]; rfl
    obtain ⟨ptr, hrest⟩ := follows_bytes q vs (done ++ [v])
      (d := { d with pw := d.pw ++ [(d.ptr, v)], ptr := pageNext d.ptr })
      (by rw [List.length_append, List.length_singleton]; omega) hm hnext hpend
    rw [List.append_assoc] at hrest
    exact ⟨ptr, (follows_write hwrite).append hrest⟩

/-- E.WRBYTE on the device: the byte is in memory, and the device is at rest (R134). -/
theorem follows_eWrbyte {d : RefDev} (hd : d.AtRest) (a v : Byte) :
    ∃ d', d.Follows ([BusEvent.start, .write (addrByte d.sla .w) true, .write a true, .write v true, .stop] ++
        pollTrace (addrByte d.sla .w) false (d.twr.headD 0)) d' ∧
      d'.AtRest ∧ d'.sla = d.sla ∧ d'.mem = memWrite d.mem a.toNat v := by
  have hwrite := onWrite_data (d := { d with ptr := a, mode := .wd }) rfl (by rw [hd.1]; simp) v
  have hdata := (follows_preamble hd a).append (follows_write hwrite)
  refine ⟨_, hdata.append (follows_commit (by simp)), ⟨rfl, rfl⟩, rfl, ?_⟩
  simp [hd.1, applyWrites]

/-- The bytes of BUF that E.WRPAGE sends (R136). -/
def pageBytes (buf : List Host.Cell) : List Byte := (List.range 8).map (memRead buf)

/-- The page that `eff(a)` begins (R132). -/
theorem eff_page (a : Byte) : ∃ q : Fin 32, (eff a).toNat = 8 * q.val := by
  have he := eff_toNat a
  exact ⟨⟨(eff a).toNat / 8, by omega⟩, by simp only; omega⟩

/-- E.WRPAGE on the device: the page holds BUF[0] to BUF[7], and the device is at rest (R136). -/
theorem follows_eWrpage {d : RefDev} (hd : d.AtRest) (a : Byte) (buf : List Host.Cell) :
    ∃ d', d.Follows ([BusEvent.start, .write (addrByte d.sla .w) true, .write (eff a) true] ++
        (pageEvents buf 0 (List.replicate 8 true) ++ [.stop]) ++
        pollTrace (addrByte d.sla .w) false (d.twr.headD 0)) d' ∧
      d'.AtRest ∧ d'.sla = d.sla ∧ d'.mem = memFill d.mem (eff a).toNat (pageBytes buf) := by
  obtain ⟨q, hq⟩ := eff_page a
  have hptr : eff a = BitVec.ofNat 8 (8 * q.val) := BitVec.eq_of_toNat_eq (by rw [hq, BitVec.toNat_ofNat]; omega)
  obtain ⟨ptr, hbytes⟩ := follows_bytes q (pageBytes buf) [] (d := { d with ptr := eff a, mode := .wd })
    (by simp [pageBytes]) rfl hptr hd.1
  have hcommit := follows_commit
    (d := { d with ptr := ptr, mode := .wd, pw := pendingFrom (8 * q.val) (pageBytes buf) })
    (by simp [pageBytes, pendingFrom, List.range_succ])
  refine ⟨_, ((follows_preamble hd (eff a)).append hbytes).append hcommit, ⟨rfl, rfl⟩, rfl, ?_⟩
  rw [hq]
  exact applyWrites_pendingFrom (by simp [pageBytes]; omega) d.mem

/-! ### Reads -/

/-- A read gives the byte at the pointer and moves it on (R70). -/
theorem follows_read {d : RefDev} (hm : d.mode = .rd) (k : Bool) :
    d.Follows [.read (memRead d.mem d.ptr.toNat) k] { d with ptr := d.ptr + 1#8, mode := if k then .rd else .off } := by
  simp [RefDev.Follows, RefDev.Agrees, RefDev.after, RefDev.onRead, hm]

/-- The receives of E.RDSEQ on the device: the bytes from the pointer up; induction on these (R70, R137). -/
theorem follows_reads : ∀ (vs : List Byte) {d : RefDev}, vs ≠ [] → d.mode = .rd → d.pw = [] →
    d.ptr.toNat + vs.length ≤ 256 → (∀ j, j < vs.length → memRead d.mem (d.ptr.toNat + j) = vs.getD j 0#8) →
    ∃ ptr, d.Follows (vs.dropLast.map (fun v => .read v true) ++ [.read (vs.getLastD 0#8) false, .stop])
      { d with ptr := ptr, mode := .idle }
  | [], _, hne, _, _, _, _ => absurd rfl hne
  | [v], d, _, hm, hpw, _, hread => by
    have hv : memRead d.mem d.ptr.toNat = v := hread 0 (by simp)
    have hlast := follows_read hm false
    rw [hv] at hlast
    exact ⟨_, hlast.append (follows_stop hpw)⟩
  | v :: w :: vs, d, _, hm, hpw, hlen, hread => by
    rw [List.length_cons, List.length_cons] at hlen
    have hv : memRead d.mem d.ptr.toNat = v := hread 0 (by simp)
    have hnext : (d.ptr + 1#8).toNat = d.ptr.toNat + 1 := by bv_omega
    have hfirst := follows_read hm true
    rw [hv] at hfirst
    obtain ⟨ptr, hrest⟩ := follows_reads (w :: vs) (d := { d with ptr := d.ptr + 1#8, mode := .rd }) (by simp) rfl hpw
      (by rw [hnext, List.length_cons]; omega) fun j hj => by
        rw [hnext, Nat.add_assoc, Nat.add_comm 1]
        exact hread (j + 1) (Nat.succ_lt_succ hj)
    exact ⟨ptr, hfirst.append hrest⟩

/-- E.RDBYTE on the device: the byte of its memory (R135). -/
theorem follows_eRdbyte {d : RefDev} (hd : d.AtRest) (a : Byte) :
    ∃ d', d.Follows [.start, .write (addrByte d.sla .w) true, .write a true, .repStart,
        .write (addrByte d.sla .r) true, .read (memRead d.mem a.toNat) false, .stop] d' ∧ d'.mem = d.mem :=
  ⟨_, (follows_readPreamble hd a).append ((follows_read (d := { d with ptr := a, mode := .rd }) rfl false).append
    (follows_stop hd.1)), rfl⟩

/-- E.RDSEQ on the device: the bytes of its memory from the address up (R137). -/
theorem follows_eRdseq {d : RefDev} (hd : d.AtRest) (a : Byte) {vs : List Byte} (hne : vs ≠ [])
    (hlen : a.toNat + vs.length ≤ 256)
    (hread : ∀ j, j < vs.length → memRead d.mem (a.toNat + j) = vs.getD j 0#8) :
    ∃ d', d.Follows ([BusEvent.start, .write (addrByte d.sla .w) true, .write a true, .repStart,
        .write (addrByte d.sla .r) true] ++
        (vs.dropLast.map (fun v => BusEvent.read v true) ++ [BusEvent.read (vs.getLastD 0#8) false, .stop])) d' ∧
      d'.mem = d.mem := by
  obtain ⟨ptr, hreads⟩ := follows_reads vs (d := { d with ptr := a, mode := .rd }) hne rfl hd.1 hlen hread
  exact ⟨_, (follows_readPreamble hd a).append hreads, rfl⟩

/-- BUF filled with the bytes it holds is BUF (R137). -/
theorem memFill_pageBytes {buf : List Host.Cell} (h : Memory.wf buf = true) : memFill buf 0 (pageBytes buf) = buf := by
  refine mem_ext (wf_memFill (pageBytes buf) buf 0 h (by simp [pageBytes])) h fun x => ?_
  rw [memRead_memFill (pageBytes buf) buf 0 x h (by simp [pageBytes])]
  split
  · next hx => simp_all [pageBytes, List.getD_eq_getElem?_getD]
  · rfl

end Sys2Proof.Machine

namespace Sys2Proof.Claim
open Sys2Proof.Machine

/-- Settles O59: on the bench each command makes its path, and the device gives the events of the path. -/
theorem writtenByteReadsBack : Obligations.WrittenByteReadsBack := by
  rintro a d ⟨s, dev, program⟩ - ⟨hs, hbph, hpend, hans, hcodes⟩ ⟨hsla, hbusyn, hpw, hwf⟩ rfl
  obtain ⟨dev₁, hdev₁, hrest₁, hsla₁, hmem₁⟩ := follows_eWrbyte ⟨hpw, hbusyn⟩ a d
  obtain ⟨dev₂, hdev₂, hmem₂⟩ := follows_eRdbyte hrest₁ a
  have hbyte : memRead dev₁.mem a.toNat = d := by rw [hmem₁]; exact memRead_memWrite_same _ _ hwf
  rw [hsla₁, hbyte, hsla] at hdev₂
  rw [hsla] at hdev₁
  obtain ⟨t, hrun₁, hover₁⟩ := reaches_call (rest := call (.eRdbyte a)) rfl rfl
    ⟨hs, hpend, hans, rfl⟩ hbph (path_eWrbyte a d true true true _ hcodes hbph) hdev₁
  obtain ⟨u, hrun₂, hidle, -, -, hregs⟩ := reaches_call (rest := []) rfl rfl hover₁ rfl
    (path_eRdbyte a d true true true rfl) hdev₂
  obtain ⟨k, hk⟩ := hrun₁.trans hrun₂
  have hnak : u.nak = s.nak := (congrArg Regs.nak hregs).trans (by simp; rfl)
  refine ⟨k, _, hk, rfl, (busy_eq_false_iff u).mpr hidle, congrArg Regs.result hregs, hnak, ?_, fun x hx => ?_⟩
  · rw [hmem₂, hbyte]
  · rw [hmem₂, hmem₁, memRead_memWrite_other d hx]

/-- Settles O60: likewise; the page fits into the memory, so the bytes read are the bytes written, and BUF, filled with
what it holds, is as before. -/
theorem writtenPageReadsBack : Obligations.WrittenPageReadsBack := by
  rintro a ⟨s, dev, program⟩ hI ⟨hs, hbph, hpend, hans, hcodes⟩ ⟨hsla, hbusyn, hpw, hwf⟩ rfl
  have hlen : (pageBytes s.buf).length = 8 := by simp [pageBytes]
  have hpage : (eff a).toNat + (pageBytes s.buf).length ≤ 256 := by
    have he := eff_toNat a
    omega
  obtain ⟨dev₁, hdev₁, hrest₁, hsla₁, hmem₁⟩ := follows_eWrpage ⟨hpw, hbusyn⟩ a s.buf
  have hread (j : Nat) (hj : j < (pageBytes s.buf).length) :
      memRead dev₁.mem ((eff a).toNat + j) = (pageBytes s.buf).getD j 0#8 := by
    rw [hmem₁, memRead_memFill _ _ _ _ hwf hpage, if_pos (by omega), Nat.add_sub_cancel_left]
  obtain ⟨dev₂, hdev₂, hmem₂⟩ := follows_eRdseq hrest₁ (eff a) (by simp [pageBytes]) hpage hread
  rw [hsla₁, hsla] at hdev₂
  rw [hsla] at hdev₁
  obtain ⟨t, hrun₁, hover₁⟩ := reaches_call (rest := call (.eRdseq (eff a) 8#8)) rfl rfl
    ⟨hs, hpend, hans, rfl⟩ hbph (path_eWrpage a true true (List.replicate 8 true) _ rfl hcodes hbph) hdev₁
  obtain ⟨u, hrun₂, hidle, -, -, hregs⟩ := reaches_call (rest := []) rfl rfl hover₁ rfl
    (path_eRdseq (eff a) 8#8 true true true (pageBytes s.buf) (by decide) hlen rfl) hdev₂
  obtain ⟨k, hk⟩ := hrun₁.trans hrun₂
  have hbuf : u.buf = s.buf := (congrArg Regs.buf hregs).trans (memFill_pageBytes hI.bufWf)
  refine ⟨k, _, hk, rfl, (busy_eq_false_iff u).mpr hidle, hbuf, fun j hj => ?_⟩
  have hbyte : (pageBytes s.buf).getD j 0#8 = memRead s.buf j := by simp [pageBytes, List.getD_eq_getElem?_getD, hj]
  rw [hmem₂, hread j (by omega), hbyte]

end Sys2Proof.Claim
end

section
/-! PROOFS. The exceptions of the block (60_exceptions.md R162 to R169): the rejected launch, the FAULT entry from a label in flight, the two hangs, and the host's access to a busy block. -/

namespace Sys2Proof.Machine
open Sys2Proof.Claim

theorem busy_of_run {s : State} {op : Op} {l : Label} {i : Byte} (hs : s.sch = .run op l i) : s.busy = true :=
  (busy_eq_true_iff s).mpr (.inl ⟨op, l, i, hs⟩)

theorem flt_of_run {s : State} {op : Op} {l : Label} {i : Byte} (hs : s.sch = .run op l i) : s.flt = false := by
  rw [← Bool.not_eq_true, flt_eq_true_iff, hs]
  exact nofun

theorem withMoves_of_moves {s : State} {ms : List Move} (h : s.moves = ms) : withMoves ms s = s := by
  subst h; rfl

/-- A write of CMD_OP in S_IDLE, Inv or no Inv: rejected with a code that is not NONE, or accepted (R84). -/
theorem launchWrite_cases (v : Byte) {s : State} (hs : s.sch = .idle) :
    (∃ code, code ≠ .none ∧ launchWrite v s = .next (reject code (setCmdOp v s))) ∨
    ∃ c : Instr, launchWrite v s = .next (accept c.op (setCmdOp v s)) := by
  cases hd : decode (cmdWordOf v s.cmdA s.cmdB s.cmdF) with
  | command c =>
    have hlaunch := (launchWrite_command hd).trans (exec_idle (c := c) (s := setCmdOp v s) hs)
    rcases launch_cases c (setCmdOp v s) with ⟨-, e⟩ | ⟨-, -, e⟩ | ⟨-, -, e⟩ <;> rw [e] at hlaunch
    · exact .inl ⟨.lenZero, nofun, hlaunch⟩
    · exact .inl ⟨.sequence, nofun, hlaunch⟩
    · exact .inr ⟨c, hlaunch⟩
  | illegalOp => exact .inl ⟨.illegalOp, nofun, launchWrite_illegalOp hd⟩
  | reservedField => exact .inl ⟨.reservedField, nofun, launchWrite_reservedField hd⟩

/-- With an operation in flight the ENV step is the answer to it at the label that issued it (R100). -/
theorem moveStep_env_inFlight {s : State} (hI : Inv s) {q : BusOp} (hp : s.pend = some q) (r : Response) :
    ∃ op after, moveStep (.env r) s = .next (envAction op after q r (answering r s)) := by
  obtain ⟨l, i, c, p, after, hs, hc, ha, -, -⟩ := inFlight_label hI hp
  have hg : Given c l i q r (answering r s) := ⟨hs, hp, rfl⟩
  exact ⟨c.op, after, (envStep_run r hs hp hc.latched).trans (hg.exec_eq (tableOf_some_congr ha rfl rfl))⟩

/-- With an operation in flight and no answer a BLOCK move changes nothing (R42). -/
theorem moveStep_block_inFlight {s : State} (hI : Inv s) (hp : s.pend ≠ none) : moveStep .block s = .next s := by
  obtain ⟨q, hq⟩ := Option.ne_none_iff_exists'.mp hp
  obtain ⟨l, i, c, p, after, hs, hc, ha, -, -⟩ := inFlight_label hI hq
  have hw : Waiting c l i q s := ⟨hs, hq, hI.answered⟩
  exact (runningStep_run hs hc.latched).trans (hw.exec_eq ha)

/-- A bus that never answers: the block waits through any number of BLOCK moves (R42, R168). -/
theorem run_silent : ∀ (m : Nat) {s : State}, Inv s → s.pend ≠ none → s.moves = List.replicate m .block →
    core.run m s = .next (withMoves [] s)
  | 0, s, _, _, hm => congrArg Host.Outcome.next (withMoves_of_moves hm).symm
  | m + 1, s, hI, hp, hm => by
    have hI' : Inv (withMoves (List.replicate m .block) s) := hI.congr rfl rfl rfl rfl rfl rfl rfl rfl rfl rfl
    rw [run_cons m (hm.trans List.replicate_succ) (moveStep_block_inFlight hI' hp)]
    exact run_silent m hI' hp rfl

/-- A poll refused `m` times stands at W0 again, with NAK as it was: each round is one refused attempt (R133, R168). -/
theorem path_refused {c : Instr} {i : Byte} (hp : Polls c) : ∀ (m : Nat) {g : Regs}, Distinct g.params.codes →
    ∃ es, Path c (Stands c .w0 i g) (List.replicate m (opMoves .ok ++ opMoves .nack ++ [.block])).flatten es
      (fun t => Ready c .w0 i t ∧ t.nak = g.nak)
  | 0, g, _ => ⟨[], fun s ⟨hr, hs⟩ => ⟨s, .nil s, hr, congrArg Regs.nak hs⟩⟩
  | m + 1, g, hcodes => by
    have hround := path_attempt (i := i) hp false hcodes
    obtain ⟨es, hrest⟩ := path_refused hp m (g := g.started.addressed .w false false) hcodes
    have hnak : (g.started.addressed .w false false).nak = g.nak := by simp [Regs.started, Regs.addressed]
    exact ⟨_, hnak ▸ hround.trans hrest⟩

end Sys2Proof.Machine

namespace Sys2Proof.Claim
open Sys2Proof.Machine

/-- Settles O14: a rejection writes ERRCODE over the state with the byte in CMD_OP; an acceptance enters S_RUN. -/
theorem rejectedLaunchChangesOnlyTheCode : Obligations.RejectedLaunchChangesOnlyTheCode := by
  intro s v rest hm hb
  have hs : s.sch = .idle := (busy_eq_false_iff s).mp hb
  rw [step_cmdOp_idle hm hs]
  rcases launchWrite_cases v (s := withMoves rest s) hs with ⟨code, hcode, e⟩ | ⟨c, e⟩
  · exact ⟨_, e, .inr ⟨hcode, rfl⟩⟩
  · exact ⟨_, e, .inl ⟨rfl, rfl⟩⟩

/-- Settles O35: the refused poll by induction on its rounds, the silent bus by induction on the BLOCK moves. -/
theorem hangsAreAdmitted : Obligations.HangsAreAdmitted := by
  refine ⟨fun m s c i hc hpolling hr hcodes hm => ?_, fun m s hI hp hm => ?_⟩
  · have hpolls : Polls c := by
      rcases hpolling with rfl | ⟨a, d, rfl⟩ | ⟨a, rfl⟩
      · exact polls_eWaitrdy
      · exact polls_eWrbyte a d
      · exact polls_eWrpage a
    obtain ⟨es, hpath⟩ := path_refused (i := i) hpolls m (g := s.regs) hcodes
    obtain ⟨t, hwalk, hready, hnak⟩ := hpath s ⟨hr, rfl⟩
    have hrun := hwalk.run hc
    rw [withMoves_of_moves hm, ← hm] at hrun
    have ⟨hsch, _, _⟩ := hready
    exact ⟨withMoves [] t, hrun, hready, busy_of_run hsch, flt_of_run hsch, hnak⟩
  · obtain ⟨q, hq⟩ := Option.ne_none_iff_exists'.mp hp
    obtain ⟨l, i, c, p, after, hs, -⟩ := inFlight_label hI hq
    exact ⟨run_silent m hI hp hm, busy_of_run hs, flt_of_run hs⟩

/-- Settles O36: ARB_LOST and BUS_ERROR answer every operation but STOP, and the ENV step is then the FAULT entry. -/
theorem faultEntryStopsTheBlock : Obligations.FaultEntryStopsTheBlock := by
  intro s q r rest code hI hp hq hcode hm
  have hI' : Inv (withMoves rest s) := hI.congr rfl rfl rfl rfl rfl rfl rfl rfl rfl rfl
  obtain ⟨op, after, hstep⟩ := moveStep_env_inFlight hI' hp r
  obtain ⟨f, hf, rfl⟩ : ∃ f : Status, answered q r s.bph s.twdr = .faults f ∧ code = f.code s.params.codes := by
    obtain ⟨harb, herr⟩ := answered_faults hq s.bph s.twdr
    rcases hcode with ⟨rfl, rfl⟩ | ⟨rfl, rfl⟩
    · exact ⟨.arbLost, harb, rfl⟩
    · exact ⟨.busError, herr, rfl⟩
  rw [step_cons hm, hstep, envAction_faults (s := answering r (withMoves rest s)) hf, hI.answered]
  rfl

/-- Settles O46: while BUSY = 1 a host write launches nothing, and it then writes a staging register, NAK or OVR at
most: BUF is written while BUSY = 0 alone. -/
theorem hostCannotDisturbARunningCommand : Obligations.HostCannotDisturbARunningCommand := by
  rintro s m rest hb hm (⟨h, rfl⟩ | ⟨h, v, rfl⟩)
  · exact ⟨_, step_hostRead hm, rfl⟩
  · have hs : s.sch ≠ .idle := fun hs => absurd (hb.symm.trans ((busy_eq_false_iff s).mpr hs)) (by decide)
    refine ⟨_, step_hostWrite hm (.inr hs), ?_⟩
    rcases hostWrite_cases h v (withMoves rest s) with e | e | e | e | e | e | ⟨hidle, -⟩
    case inr.inr.inr.inr.inr.inr => exact absurd (hb.symm.trans hidle) (by decide)
    all_goals
      rw [e]
      rfl

end Sys2Proof.Claim
end
